-- ==== Sys2Proof/Word.lean ====
section
/-! DEFINITION. The data the block moves: bytes, halfwords, bus words, line levels and the 5-byte frame. -/

namespace Sys2Proof

/-- One byte: a frame byte F[i] (R30) or a pin identifier (R37). -/
abbrev Byte := BitVec 8

/-- A reading register's width, HUM_W = TEMP_W = 16 (R9). -/
abbrev Half := BitVec 16

/-- A host register and the bus data, REG_W = 32 (R9). -/
abbrev Word := BitVec 32

/-- A host bus byte address, ADDR_W = 8 (R9). -/
abbrev Addr := BitVec 8

/-- The level of the line: low is 0 and high is 1 (R13). -/
inductive Level where
  | low
  | high
deriving DecidableEq, Repr, Inhabited

/-- The RawFrame F[0..4] (R18, R30): `b0` is F[0], the byte received first. -/
structure Frame where
  b0 : Byte
  b1 : Byte
  b2 : Byte
  b3 : Byte
  b4 : Byte
deriving DecidableEq, Repr, Inhabited

/-- The frame an accepted START and reset leave: all five bytes 0 (R30, R101, R230). -/
def Frame.zero : Frame := ⟨0#8, 0#8, 0#8, 0#8, 0#8⟩

end Sys2Proof
end

