-- ==== Sys2Proof/Syntax.lean ====
section
/-! DEFINITION. The instructions: one constructor per row of spec/opcode_table.json, 14 host operations (R91) and 12
engine steps (R92). -/

namespace Sys2Proof

/-- One host operation or one engine step. A write carries its payload WDATA (R80), the two unmapped rows their address
(R113, R114), the four wait steps their one operand, the line sample (R82), and ENG.RESERVED its STATE code (R170). -/
inductive Instr where
  /-- RD.CTRL, R102. -/
  | rdCtrl
  /-- WR.CTRL, R101. -/
  | wrCtrl (wdata : Word)
  /-- RD.STATUS, R103. -/
  | rdStatus
  /-- WR.STATUS, R104. -/
  | wrStatus (wdata : Word)
  /-- RD.HUMIDITY, R105. -/
  | rdHumidity
  /-- WR.HUMIDITY, R106. -/
  | wrHumidity (wdata : Word)
  /-- RD.TEMPERATURE, R107. -/
  | rdTemperature
  /-- WR.TEMPERATURE, R108. -/
  | wrTemperature (wdata : Word)
  /-- RD.READING, R109. -/
  | rdReading
  /-- WR.READING, R110. -/
  | wrReading (wdata : Word)
  /-- RD.PIN, R112. -/
  | rdPin
  /-- WR.PIN, R111. -/
  | wrPin (wdata : Word)
  /-- RD.UNMAPPED, R113. -/
  | rdUnmapped (addr : Addr)
  /-- WR.UNMAPPED, R114. -/
  | wrUnmapped (addr : Addr) (wdata : Word)
  /-- ENG.IDLE, R166. -/
  | engIdle
  /-- ENG.WAKE_LOW, R150. -/
  | engWakeLow
  /-- ENG.REQ_HIGH, R151. -/
  | engReqHigh
  /-- ENG.ACK_LOW, R152. -/
  | engAckLow (sample : Level)
  /-- ENG.ACK_HIGH, R153. -/
  | engAckHigh (sample : Level)
  /-- ENG.BIT_LOW, R154. -/
  | engBitLow (sample : Level)
  /-- ENG.BIT_HIGH, R155. -/
  | engBitHigh (sample : Level)
  /-- ENG.VALIDATE, R160. -/
  | engValidate
  /-- ENG.SUCCESS, R167. -/
  | engSuccess
  /-- ENG.TIMEOUT_ERR, R168. -/
  | engTimeoutErr
  /-- ENG.CHECKSUM_ERR, R169. -/
  | engChecksumErr
  /-- ENG.RESERVED, R170. -/
  | engReserved (code : BitVec 4)
deriving DecidableEq, Repr

end Sys2Proof
end

