-- ==== Sys2Proof/WellFormed.lean ====
section
/-! DEFINITION. Which instruction terms stand for words of the opcode map: the lowest-priority rows take only what no
exact row takes (R91, R92). -/

namespace Sys2Proof

/-- The six register offsets of R61. Every other address, and so every misaligned one, is unmapped (R62). -/
def isMapped (addr : Addr) : Bool :=
  addr == 0x00#8 || addr == 0x04#8 || addr == 0x08#8 || addr == 0x0C#8 || addr == 0x10#8 || addr == 0x14#8

/-- The reserved STATE codes 11..15 (R22, R26). -/
def isReservedCode (code : BitVec 4) : Bool := decide (11 ≤ code.toNat)

/-- A term is well formed when its operands are ones its row can carry: an unmapped row carries an unmapped address,
ENG.RESERVED a reserved code. Every other row takes every operand value. -/
def Instr.wellFormed : Instr → Bool
  | .rdUnmapped addr => !isMapped addr
  | .wrUnmapped addr _ => !isMapped addr
  | .engReserved code => isReservedCode code
  | .rdCtrl => true
  | .wrCtrl _ => true
  | .rdStatus => true
  | .wrStatus _ => true
  | .rdHumidity => true
  | .wrHumidity _ => true
  | .rdTemperature => true
  | .wrTemperature _ => true
  | .rdReading => true
  | .wrReading _ => true
  | .rdPin => true
  | .wrPin _ => true
  | .engIdle => true
  | .engWakeLow => true
  | .engReqHigh => true
  | .engAckLow _ => true
  | .engAckHigh _ => true
  | .engBitLow _ => true
  | .engBitHigh _ => true
  | .engValidate => true
  | .engSuccess => true
  | .engTimeoutErr => true
  | .engChecksumErr => true

end Sys2Proof
end

