-- ==== Sys2Proof/Decode.lean ====
section
/-! DEFINITION. The two formats of R80, the decoder (R91, R92), the encoder, and both over bytes. -/

namespace Sys2Proof

/-- The two formats of R80. Which of them applies is said by the kind of step (host access or tick), not by the bits. -/
inductive Format where
  | hbus
  | fsm
deriving DecidableEq, Repr

/-- What the selector and payload wires carry in one step (R80). HBUS: OP[8:0] = WE : ADDR (R81) and WDATA, which means
nothing on a read. FSM: STATE[3:0] and the line sample (R82), which means nothing outside states 3..6. -/
inductive Code where
  | hbus (op : BitVec 9) (wdata : Word)
  | fsm (state : BitVec 4) (sample : Level)
deriving DecidableEq, Repr

/-- OP[8], WE: 1 is a write (R81). -/
def opWrite (op : BitVec 9) : Bool := op.getLsbD 8

/-- OP[7:0], ADDR (R81). -/
def opAddr (op : BitVec 9) : Addr := op.extractLsb' 0 8

/-- `OP[8:0] = WE : ADDR[7:0]` (R80). -/
def makeOp (we : Bool) (addr : Addr) : BitVec 9 := BitVec.ofBool we ++ addr

/-- R91: an exact match on one of rows 1–12; any other OP is row 13 or 14 by WE. -/
def decodeHost (op : BitVec 9) (wdata : Word) : Instr :=
  if op = 0x000#9 then .rdCtrl
  else if op = 0x100#9 then .wrCtrl wdata
  else if op = 0x004#9 then .rdStatus
  else if op = 0x104#9 then .wrStatus wdata
  else if op = 0x008#9 then .rdHumidity
  else if op = 0x108#9 then .wrHumidity wdata
  else if op = 0x00C#9 then .rdTemperature
  else if op = 0x10C#9 then .wrTemperature wdata
  else if op = 0x010#9 then .rdReading
  else if op = 0x110#9 then .wrReading wdata
  else if op = 0x014#9 then .rdPin
  else if op = 0x114#9 then .wrPin wdata
  else if opWrite op then .wrUnmapped (opAddr op) wdata
  else .rdUnmapped (opAddr op)

/-- R92: the engine-step rows by STATE; rows 23–25 take 8..10, so the last row is left 11..15. -/
def decodeEngine (state : BitVec 4) (sample : Level) : Instr :=
  if state = 0x0#4 then .engIdle
  else if state = 0x1#4 then .engWakeLow
  else if state = 0x2#4 then .engReqHigh
  else if state = 0x3#4 then .engAckLow sample
  else if state = 0x4#4 then .engAckHigh sample
  else if state = 0x5#4 then .engBitLow sample
  else if state = 0x6#4 then .engBitHigh sample
  else if state = 0x7#4 then .engValidate
  else if state = 0x8#4 then .engSuccess
  else if state = 0x9#4 then .engTimeoutErr
  else if state = 0xA#4 then .engChecksumErr
  else .engReserved state

/-- The decoder. It never refuses: no encoding is illegal (R93). -/
def decode : Code → Instr
  | .hbus op wdata => decodeHost op wdata
  | .fsm state sample => decodeEngine state sample

/-- The format of an instruction's row (R91, R92). -/
def Instr.format : Instr → Format
  | .rdCtrl => .hbus
  | .wrCtrl _ => .hbus
  | .rdStatus => .hbus
  | .wrStatus _ => .hbus
  | .rdHumidity => .hbus
  | .wrHumidity _ => .hbus
  | .rdTemperature => .hbus
  | .wrTemperature _ => .hbus
  | .rdReading => .hbus
  | .wrReading _ => .hbus
  | .rdPin => .hbus
  | .wrPin _ => .hbus
  | .rdUnmapped _ => .hbus
  | .wrUnmapped _ _ => .hbus
  | .engIdle => .fsm
  | .engWakeLow => .fsm
  | .engReqHigh => .fsm
  | .engAckLow _ => .fsm
  | .engAckHigh _ => .fsm
  | .engBitLow _ => .fsm
  | .engBitHigh _ => .fsm
  | .engValidate => .fsm
  | .engSuccess => .fsm
  | .engTimeoutErr => .fsm
  | .engChecksumErr => .fsm
  | .engReserved _ => .fsm

/-- The encoder, from the same map (R91, R92). A payload that means nothing is encoded as 0 / low. -/
def encode : Instr → Code
  | .rdCtrl => .hbus 0x000#9 0#32
  | .wrCtrl wdata => .hbus 0x100#9 wdata
  | .rdStatus => .hbus 0x004#9 0#32
  | .wrStatus wdata => .hbus 0x104#9 wdata
  | .rdHumidity => .hbus 0x008#9 0#32
  | .wrHumidity wdata => .hbus 0x108#9 wdata
  | .rdTemperature => .hbus 0x00C#9 0#32
  | .wrTemperature wdata => .hbus 0x10C#9 wdata
  | .rdReading => .hbus 0x010#9 0#32
  | .wrReading wdata => .hbus 0x110#9 wdata
  | .rdPin => .hbus 0x014#9 0#32
  | .wrPin wdata => .hbus 0x114#9 wdata
  | .rdUnmapped addr => .hbus (makeOp false addr) 0#32
  | .wrUnmapped addr wdata => .hbus (makeOp true addr) wdata
  | .engIdle => .fsm 0x0#4 .low
  | .engWakeLow => .fsm 0x1#4 .low
  | .engReqHigh => .fsm 0x2#4 .low
  | .engAckLow sample => .fsm 0x3#4 sample
  | .engAckHigh sample => .fsm 0x4#4 sample
  | .engBitLow sample => .fsm 0x5#4 sample
  | .engBitHigh sample => .fsm 0x6#4 sample
  | .engValidate => .fsm 0x7#4 .low
  | .engSuccess => .fsm 0x8#4 .low
  | .engTimeoutErr => .fsm 0x9#4 .low
  | .engChecksumErr => .fsm 0xA#4 .low
  | .engReserved code => .fsm code .low

/-! ### The byte image of a code

DESIGN CHOICE (log 11): the spec's two formats are wires, not stored bytes. An image is the selector in whole bytes, then
the payload, each least significant byte first (R66's convention): OP in 2 bytes, then WDATA in 4 bytes on a write;
STATE in 1 byte, then the sample in 1 byte. -/

/-- Why bytes are the image of no code. -/
inductive DecodeError where
  /-- Fewer bytes than the format's selector and payload take. -/
  | truncated
  /-- A bit above OP[8] or above STATE[3] is set. -/
  | selectorTooWide
  /-- A sample byte that is neither 0 nor 1. -/
  | sampleNotABit
deriving DecidableEq, Repr

/-- The bytes of a little-endian word, lowest first (R66). -/
def wordBytes (w : Word) : List Byte :=
  [w.extractLsb' 0 8, w.extractLsb' 8 8, w.extractLsb' 16 8, w.extractLsb' 24 8]

/-- A line sample as a byte: low is 0, high is 1 (R13). -/
def sampleByte : Level → Byte
  | .low => 0#8
  | .high => 1#8

/-- The code at the front of a list of bytes, and the bytes after it. -/
def codeOfBytes : Format → List Byte → Except DecodeError (Code × List Byte)
  | .hbus, lo :: hi :: rest =>
    if hi.extractLsb' 1 7 = 0#7 then
      let op : BitVec 9 := makeOp (hi.getLsbD 0) lo
      if hi.getLsbD 0 then
        match rest with
        | w0 :: w1 :: w2 :: w3 :: rest' => .ok (.hbus op (w3 ++ w2 ++ w1 ++ w0), rest')
        | _ => .error .truncated
      else .ok (.hbus op 0#32, rest)
    else .error .selectorTooWide
  | .fsm, st :: sm :: rest =>
    if st.extractLsb' 4 4 = 0#4 then
      if sm = 0#8 then .ok (.fsm (st.extractLsb' 0 4) .low, rest)
      else if sm = 1#8 then .ok (.fsm (st.extractLsb' 0 4) .high, rest)
      else .error .sampleNotABit
    else .error .selectorTooWide
  | _, _ => .error .truncated

/-- The bytes of a code. -/
def bytesOfCode : Code → List Byte
  | .hbus op wdata =>
    opAddr op :: (BitVec.ofBool (opWrite op)).setWidth 8 :: (if opWrite op then wordBytes wdata else [])
  | .fsm state sample => [state.setWidth 8, sampleByte sample]

/-- The decoder over bytes. -/
def decodeBytes (fmt : Format) (bytes : List Byte) : Except DecodeError (Instr × List Byte) :=
  match codeOfBytes fmt bytes with
  | .ok (code, rest) => .ok (decode code, rest)
  | .error e => .error e

/-- The encoder over bytes. -/
def encodeBytes (i : Instr) : List Byte := bytesOfCode (encode i)

/-- Byte `k` of a number, byte 0 the least significant. -/
def natByte (w k : Nat) : Byte := BitVec.ofNat 8 (w / 2 ^ (8 * k))

/-- Read an opcode-table word with this decoder. A row of at most 8 bits has the FSM selector's width and a wider one the
HBUS selector's (R80); the bits above `nbits`, the payload among them, are 0. -/
def decodeTableWord (nbits w : Nat) : Option Instr :=
  let bits := w % 2 ^ nbits
  let image :=
    if nbits ≤ 8 then decodeBytes .fsm [natByte bits 0, natByte bits 1]
    else decodeBytes .hbus
      [natByte bits 0, natByte bits 1, natByte bits 2, natByte bits 3, natByte bits 4, natByte bits 5]
  match image with
  | .ok (i, _) => some i
  | .error _ => none

end Sys2Proof
end

