-- ==== Sys2Proof/Config.lean ====
section
/-! DEFINITION. What is fixed for this hardware: the protocol timing constants of R7, the structural parameters the
model needs, the spec's OPEN parameters, and the free values. -/

namespace Sys2Proof.Config

/-- T_WAKE, µs the line is driven low (R7). UNVERIFIED literal of the source, normative here (log 13). -/
abbrev tWake : Nat := 3000
/-- T_REQ, µs the line is driven high (R7). -/
abbrev tReq : Nat := 25
/-- T_ACK_LOW, bound of the low-response phase (R7, R139). -/
abbrev tAckLow : Nat := 85
/-- T_ACK_HIGH, bound of the high-response phase (R7, R139). -/
abbrev tAckHigh : Nat := 85
/-- T_BIT_LOW, bound of a bit's low phase (R7, R139). -/
abbrev tBitLow : Nat := 56
/-- T_BIT_HIGH, bound of a bit's high phase (R7, R139). -/
abbrev tBitHigh : Nat := 75
/-- T_ONE: a high phase longer than this is a 1 (R7, R8, R157). -/
abbrev tOne : Nat := 40
/-- N_BYTES, the frame length in bytes (R7). -/
abbrev nBytes : Nat := 5
/-- MIN_INTERVAL = 2 s in ticks of 1 µs (R7, R10, R235): the host's duty, not enforced by the block. -/
abbrev minInterval : Nat := 2000000

/-- TICK = 1 µs (R9, R10) in the unit of `State.phase` and of pending delays, 1 ns.
DESIGN CHOICE (log 2): the spec fixes the tick, not a resolution for the moments between two ticks. -/
abbrev tickNs : Nat := 1000

/-- DEFAULT_PIN, the reset value of PIN: OPEN in the spec, any value in 0..255 (R9, R37, D14; log 5). -/
opaque defaultPin : Byte

/-- BASE, where a platform places the register space: OPEN in the spec (R63, D10; log 6). -/
opaque base : Nat

/-- The level the line shows at the `n`-th sample drawn after the listed samples are used up: a free value, under no
law (R130; log 3). -/
opaque freeSample : Nat → Level

/-- What Pack leaves in F when it sets a bit with BYTEIDX in 5..7, a position that names no frame byte: the spec states
no result (R156 "Pack runs only with BYTEIDX in 0..4"), so it is a free value of the operands (log 7). -/
opaque packPastFrame : Frame → BitVec 3 → BitVec 3 → Frame

end Sys2Proof.Config
end

