-- ==== Sys2Proof/Machine/State.lean ====
section
/-! DEFINITION. The machine's state as plain data: the block's registers (R20), its time base (R46), and the inputs and
outputs that one deterministic step must hold (R14, R130, R80). -/

namespace Sys2Proof.Machine

/-- What the outside world does between two ticks. -/
inductive Action where
  /-- One host bus access: OP[8:0] and, for a write, WDATA (R80, R91). -/
  | bus (op : BitVec 9) (wdata : Word)
  /-- The reset input changes to this level (R230). -/
  | resetInput (asserted : Bool)
deriving DecidableEq, Repr

/-- An action with the time in ns at which it comes, counted from the event before it (log 1, log 2). -/
structure Pending where
  delay : Nat
  action : Action
deriving DecidableEq, Repr

/-- The block, its time base and its environment. -/
structure State where
  /-- STATE (R22). -/
  stateReg : BitVec 4
  /-- C (R27). -/
  c : BitVec 12
  /-- F[0..4] (R30). -/
  f : Frame
  /-- BYTEIDX (R32). -/
  byteIdx : BitVec 3
  /-- BITIDX (R32). -/
  bitIdx : BitVec 3
  /-- HUM (R34). -/
  hum : Half
  /-- TEMP (R35). -/
  temp : Half
  /-- PIN (R37). -/
  pin : Byte
  /-- The time base's phase: ns since the last tick or restart (R46, R47). -/
  phase : Nat
  /-- The number of the last tick, counted from the most recent accepted START or reset (R14). -/
  tickNo : Nat
  /-- The level of the reset input; true while reset is asserted (R230). The model's own field. -/
  resetLine : Bool
  /-- The host accesses and reset changes still to come, in order (R14, R70). The model's own field. -/
  pending : List Pending
  /-- The samples the line shows at the coming ticks of wait states, in order (R130). The model's own field. -/
  line : List Level
  /-- How many free samples have been drawn after `line` was used up (R130). The model's own field. -/
  draws : Nat
  /-- RDATA of the last host read (R80), the host's accumulator `a` (R94). The model's own field. -/
  rdata : Word
deriving DecidableEq, Repr

/-- There is no fault: "No host operation and no engine step can fault" (R200). Nothing raises one (safe: the type has no
value, so a step cannot end in one). -/
inductive Fault where
deriving DecidableEq, Repr

/-- Why an instruction has no meaning. -/
inductive Refusal where
  /-- Raised by an arm of `exec` whose instruction is not modelled yet; safe. No arm of this model raises it. -/
  | notModelled (mnemonic : String)
deriving DecidableEq, Repr

/-- The machine right after reset has been released (R20, R230): the reset values of R20, the time base restarted, and
nothing pending. The last six fields are the model's own (log 1, log 3, log 4, log 9, log 10). -/
def State.reset : State where
  stateReg := 0#4
  c := 0#12
  f := Frame.zero
  byteIdx := 0#3
  bitIdx := 7#3
  hum := 0#16
  temp := 0#16
  pin := Config.defaultPin
  phase := 0
  tickNo := 0
  resetLine := false
  pending := []
  line := []
  draws := 0
  rdata := 0#32

end Sys2Proof.Machine
end

