-- ==== Sys2Proof/Machine/Flags.lean ====
section
/-! DEFINITION. The STATE codes (R22), and everything that is a function of STATE: the STATUS flags (R24, R40, R41) and
the pad outputs (R45). -/

namespace Sys2Proof.Machine

/-! ### The STATE codes (R22) -/

@[simp] abbrev stIdle : BitVec 4 := 0#4
@[simp] abbrev stWakeLow : BitVec 4 := 1#4
@[simp] abbrev stReqHigh : BitVec 4 := 2#4
@[simp] abbrev stAckLow : BitVec 4 := 3#4
@[simp] abbrev stAckHigh : BitVec 4 := 4#4
@[simp] abbrev stBitLow : BitVec 4 := 5#4
@[simp] abbrev stBitHigh : BitVec 4 := 6#4
@[simp] abbrev stValidate : BitVec 4 := 7#4
@[simp] abbrev stSuccess : BitVec 4 := 8#4
@[simp] abbrev stTimeoutErr : BitVec 4 := 9#4
@[simp] abbrev stChecksumErr : BitVec 4 := 10#4

/-- `busy = (1 <= R.STATE <= 7)` (R24). -/
def busy (s : State) : Bool := decide (1 ≤ s.stateReg.toNat ∧ s.stateReg.toNat ≤ 7)

/-- A state in which the engine reads the line: STATE in 3..6 (R82). -/
def waiting (s : State) : Bool := decide (3 ≤ s.stateReg.toNat ∧ s.stateReg.toNat ≤ 6)

/-- STATUS.RESULT (R41): 1 OK, 2 TIMEOUT, 3 CHECKSUM in the terminal states, else 0 NONE. -/
def resultCode (s : State) : BitVec 2 :=
  if s.stateReg = stSuccess then 1#2
  else if s.stateReg = stTimeoutErr then 2#2
  else if s.stateReg = stChecksumErr then 3#2
  else 0#2

/-- PAD_SEL: the pad the other three signals address (R45). -/
def padSel (s : State) : Byte := s.pin

/-- PAD_OE: 1 iff STATE is WAKE_LOW or REQ_HIGH; 0 means the pad is an input (R45). -/
def padOe (s : State) : Bool := decide (s.stateReg = stWakeLow ∨ s.stateReg = stReqHigh)

/-- PAD_OUT: 1 iff STATE is REQ_HIGH (R45). -/
def padOut (s : State) : Bool := decide (s.stateReg = stReqHigh)

end Sys2Proof.Machine
end

