-- ==== Sys2Proof/Machine/Operands.lean ====
section
/-! DEFINITION. Operand assembly: the register words of R84–R89, the write operands of R90, and the decoder's data
primitives Classify, Pack, ChecksumOK, Humidity and Temperature (R156–R163). -/

namespace Sys2Proof.Machine

/-! ### Read data (R84–R90) -/

/-- CTRL reads 0 (R84, R102). -/
def ctrlWord (_s : State) : Word := 0#32

/-- `zext_32(R.STATE : 0b0 : RESULT : BUSY)` (R85, R103). -/
def statusWord (s : State) : Word :=
  ((s.stateReg ++ 0#1 ++ resultCode s ++ BitVec.ofBool (busy s) : BitVec 8)).setWidth 32

/-- `zext_32(R.HUM)` (R86, R105). -/
def humidityWord (s : State) : Word := s.hum.setWidth 32

/-- `sext_32(R.TEMP)` (R87, R107). -/
def temperatureWord (s : State) : Word := s.temp.signExtend 32

/-- `R.TEMP : R.HUM` (R88, R109). -/
def readingWord (s : State) : Word := s.temp ++ s.hum

/-- `zext_32(R.PIN)` (R89, R112). -/
def pinWord (s : State) : Word := s.pin.setWidth 32

/-- An unmapped address reads 0 (R62, R113). -/
def unmappedWord (_s : State) : Word := 0#32

/-! ### Write operands (R90) -/

/-- `WDATA[0]`, START (R84, R101). -/
def startBit (wdata : Word) : Bool := wdata.getLsbD 0

/-- `WDATA[7:0]`, the pin identifier (R89, R111). -/
def pinField (wdata : Word) : Byte := wdata.extractLsb' 0 8

/-! ### Classify and Pack -/

/-- `Classify(d) = 1 if d > T_ONE else 0` (R157). -/
def classify (d : Nat) : Bool := decide (Config.tOne < d)

/-- A byte with bit `j` set. -/
def setBit (b : Byte) (j : BitVec 3) : Byte := b ||| (1#8 <<< j.toNat)

/-- `F'[byteIdx][bitIdx] <- 1` (R156). A byte index of 5..7 names no frame byte: free (log 7). -/
def frameSetBit (f : Frame) (byteIdx bitIdx : BitVec 3) : Frame :=
  if byteIdx = 0#3 then { f with b0 := setBit f.b0 bitIdx }
  else if byteIdx = 1#3 then { f with b1 := setBit f.b1 bitIdx }
  else if byteIdx = 2#3 then { f with b2 := setBit f.b2 bitIdx }
  else if byteIdx = 3#3 then { f with b3 := setBit f.b3 bitIdx }
  else if byteIdx = 4#3 then { f with b4 := setBit f.b4 bitIdx }
  else Config.packPastFrame f byteIdx bitIdx

/-- The frame and the packing position after one bit. -/
structure Packed where
  f : Frame
  byteIdx : BitVec 3
  bitIdx : BitVec 3
deriving DecidableEq, Repr

/-- Pack(b) (R156): set the bit if it is 1, then advance; after the bit at index 0, reset to 7 and go to the next byte. -/
def pack (f : Frame) (byteIdx bitIdx : BitVec 3) (b : Bool) : Packed where
  f := if b then frameSetBit f byteIdx bitIdx else f
  byteIdx := if bitIdx = 0#3 then byteIdx + 1#3 else byteIdx
  bitIdx := if bitIdx = 0#3 then 7#3 else bitIdx - 1#3

/-! ### Validation and conversion -/

/-- `zext_10(F[0]) + zext_10(F[1]) + zext_10(F[2]) + zext_10(F[3])` (R161): 0..1020, no wrap. -/
def frameSum (f : Frame) : BitVec 10 :=
  f.b0.setWidth 10 + f.b1.setWidth 10 + f.b2.setWidth 10 + f.b3.setWidth 10

/-- `ChecksumOK <- (sum[7:0] == F[4])` (R161). -/
def checksumOk (f : Frame) : Bool := (frameSum f).extractLsb' 0 8 == f.b4

/-- `Humidity(F) = F[0] : F[1]` (R162). -/
def humidity (f : Frame) : Half := f.b0 ++ f.b1

/-- `zext_16(F[2][6:0] : F[3])` (R163). -/
def temperatureMagnitude (f : Frame) : Half := (f.b2.extractLsb' 0 7 ++ f.b3 : BitVec 15).setWidth 16

/-- Sign-magnitude to two's complement (R163): `(0x10000 - mag) mod 2^16` if F[2][7] is 1, else `mag`. -/
def temperature (f : Frame) : Half :=
  if f.b2.getLsbD 7 then BitVec.ofNat 16 (0x10000 - (temperatureMagnitude f).toNat)
  else temperatureMagnitude f

end Sys2Proof.Machine
end

