-- ==== Sys2Proof/Machine/Ops.lean ====
section
/-! DEFINITION. The shared operations over the registers: goto and finish (R12), the terminal outcomes (R200–R206), START
and PIN writes (R101, R111), the register space MemRead/MemWrite (R12, R60–R62), reset (R230), and the answer of a read. -/

namespace Sys2Proof.Machine

/-- `goto S` (R12). -/
def State.goto (s : State) (code : BitVec 4) : State := { s with stateReg := code }

/-- `R.C <- v`. -/
def State.setC (s : State) (v : BitVec 12) : State := { s with c := v }

/-- The block answers a read with RDATA (R80, R100). -/
def State.respond (s : State) (v : Word) : State := { s with rdata := v }

/-- The three outcomes of a decode (R23, R200). -/
inductive Terminal where
  | success
  | timeoutErr
  | checksumErr
deriving DecidableEq, Repr

/-- The STATE code of an outcome (R22). -/
def Terminal.code : Terminal → BitVec 4
  | .success => stSuccess
  | .timeoutErr => stTimeoutErr
  | .checksumErr => stChecksumErr

/-- `finish(O)` (R12): enter a terminal state. This is the block's whole exception entry (R206): STATE takes the terminal
code, nothing is saved, and no other register changes. The way out is an accepted START (R207). -/
def State.finish (s : State) (o : Terminal) : State := s.goto o.code

/-- An accepted START (R101): WAKE_LOW, a cleared frame and position, and the time base restarted (R46), so that the next
tick is tick 1. -/
def State.startDecode (s : State) : State :=
  { s with
    stateReg := stWakeLow
    c := 0#12
    f := Frame.zero
    byteIdx := 0#3
    bitIdx := 7#3
    phase := 0
    tickNo := 0 }

/-- A write to CTRL (R84, R101): START acts only when the block is not busy. -/
def State.writeCtrl (s : State) (wdata : Word) : State :=
  if startBit wdata && !busy s then s.startDecode else s

/-- A write to PIN (R89, R111): ignored while busy. -/
def State.writePin (s : State) (wdata : Word) : State :=
  if busy s then s else { s with pin := pinField wdata }

/-- `MemRead(addr, 4)` (R12, R60–R62): the register space as a function of the state. -/
def memRead (s : State) (addr : Addr) : Word :=
  if addr = 0x00#8 then ctrlWord s
  else if addr = 0x04#8 then statusWord s
  else if addr = 0x08#8 then humidityWord s
  else if addr = 0x0C#8 then temperatureWord s
  else if addr = 0x10#8 then readingWord s
  else if addr = 0x14#8 then pinWord s
  else unmappedWord s

/-- `MemWrite(addr, 4, v)` (R12, R60–R62, R69): only CTRL and PIN have an effect. -/
def memWrite (s : State) (addr : Addr) (v : Word) : State :=
  if addr = 0x00#8 then s.writeCtrl v
  else if addr = 0x14#8 then s.writePin v
  else s

/-- The byte at offset `j` of the register word at `addr` (R66): bits `[8j+7:8j]`, little-endian. -/
def busByte (s : State) (addr : Addr) (j : Nat) : Byte := (memRead s addr).extractLsb' (8 * j) 8

/-- The register space seen as bytes of a platform's address map at BASE (R63, R66); `none` outside it. -/
def platformByte (s : State) (a : Nat) : Option Byte :=
  if Config.base ≤ a ∧ a < Config.base + 256 then
    let offset := a - Config.base
    some (busByte s (BitVec.ofNat 8 (offset / 4 * 4)) (offset % 4))
  else none

/-- Reset (R230): every state element takes its reset value (R20) and the time base restarts. What the line, the host and
the reset input do next is outside the block and is kept, and so is RDATA (log 4, log 10). -/
def State.resetBlock (s : State) : State :=
  { s with
    stateReg := stIdle
    c := 0#12
    f := Frame.zero
    byteIdx := 0#3
    bitIdx := 7#3
    hum := 0#16
    temp := 0#16
    pin := Config.defaultPin
    phase := 0
    tickNo := 0 }

end Sys2Proof.Machine
end

