-- ==== Sys2Proof/Machine/Waiter.lean ====
section
/-! DEFINITION. The timed GPIO waiter: the wait step WAIT(v, T) of R131. -/

namespace Sys2Proof.Machine

/-- The waiter's result, PinLevelDuration (R17, R48): consumed in the tick it is produced, never stored. -/
inductive WaitResult where
  /-- Level change seen; the duration is the count of reads at the target level. -/
  | done (d : Nat)
  /-- Still at the target level, and the elapsed count exceeds the bound. -/
  | timeout
  /-- Still at the target level, within the bound: C has been incremented, read again at the next tick. -/
  | again
deriving DecidableEq, Repr

/-- WAIT(v, T) (R131): read, then compare with the target level, then test the bound. -/
def wait (v : Level) (bound : Nat) (sample : Level) (s : State) : WaitResult × State :=
  if sample ≠ v then (.done s.c.toNat, s)
  else if bound < s.c.toNat then (.timeout, s)
  else (.again, s.setC (s.c + 1#12))

end Sys2Proof.Machine
end

