-- ==== Sys2Proof/Machine/Engine.lean ====
section
/-! DEFINITION. The meanings of the 12 engine steps (R150–R170). One step is one tick. -/

namespace Sys2Proof.Machine

/-- A drive phase of `ticks` ticks (R150, R151): count this tick, and after the last one enter `after` with C = 0. -/
def drivePhase (ticks : Nat) (after : BitVec 4) (s : State) : State :=
  let count := s.c.toNat + 1
  if count = ticks then (s.goto after).setC 0#12 else s.setC (BitVec.ofNat 12 count)

/-- A wait phase whose duration is discarded (R152–R154): Done enters `after` with C = 1 (R132), Timeout ends the decode,
Continue stays. -/
def waitPhase (v : Level) (bound : Nat) (after : BitVec 4) (sample : Level) (s : State) : State :=
  match wait v bound sample s with
  | (.done _, t) => (t.goto after).setC 1#12
  | (.timeout, t) => t.finish .timeoutErr
  | (.again, t) => t

/-- ENG.IDLE (R166): no change. -/
def execEngIdle (s : State) : Host.Outcome State Fault Refusal := .next s

/-- ENG.WAKE_LOW (R150). -/
def execEngWakeLow (s : State) : Host.Outcome State Fault Refusal := .next (drivePhase Config.tWake stReqHigh s)

/-- ENG.REQ_HIGH (R151). -/
def execEngReqHigh (s : State) : Host.Outcome State Fault Refusal := .next (drivePhase Config.tReq stAckLow s)

/-- ENG.ACK_LOW (R152): WAIT(0, T_ACK_LOW). -/
def execEngAckLow (sample : Level) (s : State) : Host.Outcome State Fault Refusal :=
  .next (waitPhase .low Config.tAckLow stAckHigh sample s)

/-- ENG.ACK_HIGH (R153): WAIT(1, T_ACK_HIGH). -/
def execEngAckHigh (sample : Level) (s : State) : Host.Outcome State Fault Refusal :=
  .next (waitPhase .high Config.tAckHigh stBitLow sample s)

/-- ENG.BIT_LOW (R154): WAIT(0, T_BIT_LOW). -/
def execEngBitLow (sample : Level) (s : State) : Host.Outcome State Fault Refusal :=
  .next (waitPhase .low Config.tBitLow stBitHigh sample s)

/-- The end of a bit's high phase of duration `d` (R155): classify, pack, and go to VALIDATE with C = 0 after the 40th bit,
else to BIT_LOW with C = 1. -/
def takeBit (d : Nat) (s : State) : State :=
  let p := pack s.f s.byteIdx s.bitIdx (classify d)
  let t := { s with f := p.f, byteIdx := p.byteIdx, bitIdx := p.bitIdx }
  if p.byteIdx = 5#3 then (t.goto stValidate).setC 0#12 else (t.goto stBitLow).setC 1#12

/-- ENG.BIT_HIGH (R155): WAIT(1, T_BIT_HIGH), then the bit. -/
def execEngBitHigh (sample : Level) (s : State) : Host.Outcome State Fault Refusal :=
  match wait .high Config.tBitHigh sample s with
  | (.done d, t) => .next (takeBit d t)
  | (.timeout, t) => .next (t.finish .timeoutErr)
  | (.again, t) => .next t

/-- ENG.VALIDATE (R160): on a matching checksum both readings are written, in the same tick (R164). -/
def execEngValidate (s : State) : Host.Outcome State Fault Refusal :=
  if checksumOk s.f then
    .next ({ s with hum := humidity s.f, temp := temperature s.f }.finish .success)
  else .next (s.finish .checksumErr)

/-- ENG.SUCCESS (R167): no change. -/
def execEngSuccess (s : State) : Host.Outcome State Fault Refusal := .next s

/-- ENG.TIMEOUT_ERR (R168): no change. -/
def execEngTimeoutErr (s : State) : Host.Outcome State Fault Refusal := .next s

/-- ENG.CHECKSUM_ERR (R169): no change. -/
def execEngChecksumErr (s : State) : Host.Outcome State Fault Refusal := .next s

/-- ENG.RESERVED (R170): `goto IDLE`, nothing else changes. -/
def execEngReserved (_code : BitVec 4) (s : State) : Host.Outcome State Fault Refusal := .next (s.goto stIdle)

end Sys2Proof.Machine
end

