-- ==== Sys2Proof/Machine/HostOps.lean ====
section
/-! DEFINITION. The meanings of the 14 host operations (R101–R114). A read answers RDATA and changes nothing else; a write
changes what its rule says and answers nothing. -/

namespace Sys2Proof.Machine

/-- RD.CTRL (R102). -/
def execRdCtrl (s : State) : Host.Outcome State Fault Refusal := .next (s.respond (ctrlWord s))

/-- WR.CTRL (R101). -/
def execWrCtrl (wdata : Word) (s : State) : Host.Outcome State Fault Refusal := .next (s.writeCtrl wdata)

/-- RD.STATUS (R103). -/
def execRdStatus (s : State) : Host.Outcome State Fault Refusal := .next (s.respond (statusWord s))

/-- WR.STATUS (R104): no effect. -/
def execWrStatus (_wdata : Word) (s : State) : Host.Outcome State Fault Refusal := .next s

/-- RD.HUMIDITY (R105). -/
def execRdHumidity (s : State) : Host.Outcome State Fault Refusal := .next (s.respond (humidityWord s))

/-- WR.HUMIDITY (R106): no effect. -/
def execWrHumidity (_wdata : Word) (s : State) : Host.Outcome State Fault Refusal := .next s

/-- RD.TEMPERATURE (R107). -/
def execRdTemperature (s : State) : Host.Outcome State Fault Refusal := .next (s.respond (temperatureWord s))

/-- WR.TEMPERATURE (R108): no effect. -/
def execWrTemperature (_wdata : Word) (s : State) : Host.Outcome State Fault Refusal := .next s

/-- RD.READING (R109). -/
def execRdReading (s : State) : Host.Outcome State Fault Refusal := .next (s.respond (readingWord s))

/-- WR.READING (R110): no effect. -/
def execWrReading (_wdata : Word) (s : State) : Host.Outcome State Fault Refusal := .next s

/-- RD.PIN (R112). -/
def execRdPin (s : State) : Host.Outcome State Fault Refusal := .next (s.respond (pinWord s))

/-- WR.PIN (R111). -/
def execWrPin (wdata : Word) (s : State) : Host.Outcome State Fault Refusal := .next (s.writePin wdata)

/-- RD.UNMAPPED (R113): RDATA is 0, with no bus error. -/
def execRdUnmapped (_addr : Addr) (s : State) : Host.Outcome State Fault Refusal := .next (s.respond (unmappedWord s))

/-- WR.UNMAPPED (R114): no effect, with no bus error. -/
def execWrUnmapped (_addr : Addr) (_wdata : Word) (s : State) : Host.Outcome State Fault Refusal := .next s

end Sys2Proof.Machine
end

