-- ==== Sys2Proof/Machine/Dispatch.lean ====
section
/-! DEFINITION. One arm per constructor of Instr, each a direct call of its meaning. -/

namespace Sys2Proof.Machine

def exec (i : Instr) (s : State) : Host.Outcome State Fault Refusal :=
  match i with
  | .rdCtrl => Sys2Proof.Machine.execRdCtrl s
  | .wrCtrl wdata => Sys2Proof.Machine.execWrCtrl wdata s
  | .rdStatus => Sys2Proof.Machine.execRdStatus s
  | .wrStatus wdata => Sys2Proof.Machine.execWrStatus wdata s
  | .rdHumidity => Sys2Proof.Machine.execRdHumidity s
  | .wrHumidity wdata => Sys2Proof.Machine.execWrHumidity wdata s
  | .rdTemperature => Sys2Proof.Machine.execRdTemperature s
  | .wrTemperature wdata => Sys2Proof.Machine.execWrTemperature wdata s
  | .rdReading => Sys2Proof.Machine.execRdReading s
  | .wrReading wdata => Sys2Proof.Machine.execWrReading wdata s
  | .rdPin => Sys2Proof.Machine.execRdPin s
  | .wrPin wdata => Sys2Proof.Machine.execWrPin wdata s
  | .rdUnmapped addr => Sys2Proof.Machine.execRdUnmapped addr s
  | .wrUnmapped addr wdata => Sys2Proof.Machine.execWrUnmapped addr wdata s
  | .engIdle => Sys2Proof.Machine.execEngIdle s
  | .engWakeLow => Sys2Proof.Machine.execEngWakeLow s
  | .engReqHigh => Sys2Proof.Machine.execEngReqHigh s
  | .engAckLow sample => Sys2Proof.Machine.execEngAckLow sample s
  | .engAckHigh sample => Sys2Proof.Machine.execEngAckHigh sample s
  | .engBitLow sample => Sys2Proof.Machine.execEngBitLow sample s
  | .engBitHigh sample => Sys2Proof.Machine.execEngBitHigh sample s
  | .engValidate => Sys2Proof.Machine.execEngValidate s
  | .engSuccess => Sys2Proof.Machine.execEngSuccess s
  | .engTimeoutErr => Sys2Proof.Machine.execEngTimeoutErr s
  | .engChecksumErr => Sys2Proof.Machine.execEngChecksumErr s
  | .engReserved code => Sys2Proof.Machine.execEngReserved code s

end Sys2Proof.Machine
end

