-- ==== Sys2Proof/Machine/Events.lean ====
section
/-! DEFINITION. What happens next: the time base against the pending host accesses and reset changes (R14, R46, R70,
R205), the line sample of a tick (R130), and the code the step runs (R80). -/

namespace Sys2Proof.Machine

/-- ns until the next tick (R46). -/
def timeToTick (s : State) : Nat := Config.tickNs - s.phase

/-- Whether a pending action comes before the next tick. A host access happens wholly between two ticks (R14, R68), so one
due at the tick itself waits for it; reset wins over a tick it coincides with (R205, R230). DEDUCED (log 8). -/
def Pending.beforeTick (p : Pending) (s : State) : Bool :=
  match p.action with
  | .bus _ _ => decide (p.delay < timeToTick s)
  | .resetInput _ => decide (p.delay ≤ timeToTick s)

/-- `dt` ns pass: the next action comes that much sooner. -/
def passTime (dt : Nat) : List Pending → List Pending
  | [] => []
  | p :: ps => { p with delay := p.delay - dt } :: ps

/-- A tick begins (R46): the time base is at phase 0 again and the tick gets the next number (R14). -/
def State.beginTick (s : State) : State :=
  { s with pending := passTime (timeToTick s) s.pending, phase := 0, tickNo := s.tickNo + 1 }

/-- The sample a tick reads and the state after reading it (R130). Outside the wait states nothing is read (R82): the level
answered there means nothing, and no decoded instruction carries it (log 18). -/
def drawSample (s : State) : Level × State :=
  if waiting s then
    match s.line with
    | l :: ls => (l, { s with line := ls })
    | [] => (Config.freeSample s.draws, { s with draws := s.draws + 1 })
  else (.low, s)

/-- The reset input takes a level (R230, R231). While it is asserted every element holds its reset value, and the time
base restarts when it is released. -/
def State.driveReset (s : State) (asserted : Bool) : State :=
  if s.resetLine || asserted then { s.resetBlock with resetLine := asserted } else s

/-- Reset dominates (R205, R230): while it is asserted, what a step did to the block is discarded
(log 9). -/
def holdReset : Host.Outcome State Fault Refusal → Host.Outcome State Fault Refusal
  | .next t => if t.resetLine then .next t.resetBlock else .next t
  | .fault r => .fault r
  | .refused r => .refused r

/-- The next event. -/
inductive Event where
  /-- A code to run (a host access, or a tick's STATE and sample), in the state it is run in. -/
  | run (code : Code) (s : State)
  /-- The reset input takes a level. -/
  | resetInput (asserted : Bool) (s : State)
deriving DecidableEq, Repr

/-- The engine's event at a tick: STATE and the sample (R80, R82). -/
def tickEvent (s : State) : Event :=
  let drawn := drawSample s.beginTick
  .run (.fsm s.stateReg drawn.1) drawn.2

/-- The first pending action if it comes before the next tick, else the tick. -/
def nextEvent (s : State) : Event :=
  match s.pending with
  | [] => tickEvent s
  | p :: ps =>
    if p.beforeTick s then
      match p.action with
      | .bus op wdata => .run (.hbus op wdata) { s with pending := ps, phase := s.phase + p.delay }
      | .resetInput asserted => .resetInput asserted { s with pending := ps, phase := s.phase + p.delay }
    else tickEvent s

/-- Run an event. -/
def runEvent : Event → Host.Outcome State Fault Refusal
  | .run code s => holdReset (exec (decode code) s)
  | .resetInput asserted s => .next (s.driveReset asserted)

/-- Put off the first pending action past the next tick. -/
def afterTick : List Pending → List Pending
  | [] => []
  | p :: ps => { p with delay := p.delay + Config.tickNs + 1 } :: ps

/-- Make the next event the engine step of a STATE code, with a low sample. -/
def State.placeEngine (s : State) (state : BitVec 4) : State :=
  let t := { s with stateReg := state, resetLine := false, pending := afterTick s.pending }
  if waiting t then { t with line := .low :: s.line } else t

/-- Make the next event a host access. It has to come before the tick, so a phase at which the tick is due is taken back
to 0. -/
def State.placeBus (s : State) (op : BitVec 9) (wdata : Word) : State :=
  { s with
    resetLine := false
    pending := { delay := 0, action := .bus op wdata } :: s.pending
    phase := if timeToTick s = 0 then 0 else s.phase }

end Sys2Proof.Machine
end

