-- ==== Sys2Proof/Machine/Step.lean ====
section
/-! DEFINITION. One step: the next event, run. -/

namespace Sys2Proof.Machine

/-- One step of the machine: one host access, one tick, or one change of the reset input (R14). -/
def step (s : State) : Host.Outcome State Fault Refusal := runEvent (nextEvent s)

/-- `s` with an opcode-table word placed so that the next step runs it: a STATE code in STATE, which is what a tick decodes
(R82), or a host access at the head of the pending ones. The payload is 0 (log 12). -/
def State.withFetchWord (s : State) (nbits w : Nat) : State :=
  if nbits ≤ 8 then s.placeEngine (BitVec.ofNat 4 w) else s.placeBus (BitVec.ofNat 9 w) 0#32

end Sys2Proof.Machine
end

