-- ==== Sys2Proof/Machine/Run.lean ====
section
/-! DEFINITION. Several steps in a row, counted in steps (R14) or in ticks (R95's TICKS). -/

namespace Sys2Proof.Machine

/-- `n` steps, stopping at the first that is no next state. With nothing pending, `n` steps are `n` ticks. -/
def runSteps : Nat → State → Host.Outcome State Fault Refusal
  | 0, s => .next s
  | n + 1, s =>
    match step s with
    | .next t => runSteps n t
    | .fault r => .fault r
    | .refused r => .refused r

/-- Whether the next event is a tick; if not, it is a pending host access or reset change (R14). -/
def tickIsNext (s : State) : Bool :=
  match nextEvent s with
  | .run (.fsm _ _) _ => true
  | .run (.hbus _ _) _ => false
  | .resetInput _ _ => false

/-- How many of the next `k` steps are ticks. -/
def ticksIn : Nat → State → Nat
  | 0, _ => 0
  | k + 1, s =>
    (if tickIsNext s then 1 else 0) +
      match step s with
      | .next t => ticksIn k t
      | .fault _ => 0
      | .refused _ => 0

/-- Run what is pending before the next tick, at most `fuel` actions, and then the tick. -/
def runToTick : Nat → State → Host.Outcome State Fault Refusal
  | 0, s => step s
  | fuel + 1, s =>
    if tickIsNext s then step s
    else
      match step s with
      | .next t => runToTick fuel t
      | .fault r => .fault r
      | .refused r => .refused r

/-- Let `n` ticks pass, whatever is pending: an action that comes before a tick takes a step of its own and counts for
none. An action leaves one fewer pending, so their number is fuel enough. -/
def runTicks : Nat → State → Host.Outcome State Fault Refusal
  | 0, s => .next s
  | n + 1, s =>
    match runToTick s.pending.length s with
    | .next t => runTicks n t
    | .fault r => .fault r
    | .refused r => .refused r

end Sys2Proof.Machine
end

