-- ==== Sys2Proof/Machine/HostProgram.lean ====
section
/-! DEFINITION. The host as an agent: the assembler lines of R94, the pseudo-instructions of R95, what each block line
encodes to, and how a host that runs them drives the block (R115, R116). Only the RD and WR lines are operations of the
block; this file is the other end of its bus, and `step` does not use it. -/

namespace Sys2Proof.Machine

/-- The register names of R61 and R94. -/
inductive RegName where
  | ctrl
  | status
  | humidity
  | temperature
  | reading
  | pin
deriving DecidableEq, Repr

/-- The offset of a register (R61). -/
def RegName.offset : RegName → Addr
  | .ctrl => 0x00#8
  | .status => 0x04#8
  | .humidity => 0x08#8
  | .temperature => 0x0C#8
  | .reading => 0x10#8
  | .pin => 0x14#8

/-- What an RD or WR line names: a register, or `@0xNN` for a raw byte offset (R94). -/
inductive Place where
  | reg (r : RegName)
  | raw (offset : Addr)
deriving DecidableEq, Repr

/-- The byte offset of a place. -/
def Place.offset : Place → Addr
  | .reg r => r.offset
  | .raw o => o

/-- One line of a host program (R94), labels being numbers; and `TICKS n` (R95), which has no block operation. -/
inductive HostLine where
  | rd (place : Place)
  | wr (place : Place) (imm : Word)
  | label (l : Nat)
  | bit (n : Nat)
  | bnz (l : Nat)
  | bz (l : Nat)
  | ticks (n : Nat)
deriving DecidableEq, Repr

/-- "The encoding of an RD or WR line is its OP value and, for WR, the WDATA word" (R94). The other lines are the host's
own and encode to nothing. -/
def HostLine.code : HostLine → Option Code
  | .rd place => some (.hbus (makeOp false place.offset) 0#32)
  | .wr place imm => some (.hbus (makeOp true place.offset) imm)
  | .label _ => none
  | .bit _ => none
  | .bnz _ => none
  | .bz _ => none
  | .ticks _ => none

/-- The pseudo-instructions of R95; POLL and DECODE take the label their loop uses. -/
inductive Pseudo where
  | start
  | poll (l : Nat)
  | decode (l : Nat)
  | setPin (n : Word)
  | ticks (n : Nat)
deriving DecidableEq, Repr

/-- `POLL`: `p: RD STATUS` / `BIT a, 0` / `BNZ p` (R95). -/
def pollLines (l : Nat) : List HostLine := [.label l, .rd (.reg .status), .bit 0, .bnz l]

/-- The expansions of R95. -/
def Pseudo.expand : Pseudo → List HostLine
  | .start => [.wr (.reg .ctrl) 1#32]
  | .poll l => pollLines l
  | .decode l => .wr (.reg .ctrl) 1#32 :: pollLines l
  | .setPin n => [.wr (.reg .pin) n]
  | .ticks n => [.ticks n]

/-- The host: its program, the line it is at, the accumulator `a`, the test flag `t` (R94), and its speed, the number of
ticks that pass before each block line. The speed is the host's own and the spec leaves it open (log 14). -/
structure HostAgent where
  prog : List HostLine
  pc : Nat
  a : Word
  t : Bool
  gap : Nat
deriving DecidableEq, Repr

/-- The line after a label (R94). DESIGN CHOICE (log 14), the spec being silent on both: of two lines with the same label
a branch takes the first, and with no such label it goes to the end of the program. -/
def findLabel (l : Nat) : List HostLine → Nat
  | [] => 0
  | x :: xs => if x = .label l then 1 else findLabel l xs + 1

/-- One host access, issued now, before anything else that is pending. If a tick is due at this very moment the access
comes after it (log 8). -/
def issue (code : Code) (s : State) : Host.Outcome State Fault Refusal :=
  match code with
  | .hbus op wdata =>
    let u := { s with pending := { delay := 0, action := .bus op wdata } :: s.pending }
    if tickIsNext u then runSteps 2 u else step u
  | .fsm _ _ => .next s

/-- The host after its line has been run, the machine being in `s`. -/
def HostAgent.afterLine (h : HostAgent) (line : HostLine) (s : State) : HostAgent :=
  match line with
  | .rd _ => { h with pc := h.pc + 1, a := s.rdata }
  | .wr _ _ => { h with pc := h.pc + 1 }
  | .label _ => { h with pc := h.pc + 1 }
  | .bit n => { h with pc := h.pc + 1, t := h.a.getLsbD n }
  | .bnz l => { h with pc := if h.t then findLabel l h.prog else h.pc + 1 }
  | .bz l => { h with pc := if h.t then h.pc + 1 else findLabel l h.prog }
  | .ticks _ => { h with pc := h.pc + 1 }

/-- What a line does to the machine: a block line lets `gap` ticks pass and then makes its access, `TICKS n` lets `n` ticks
pass (R95), the other lines take no time. What is pending beside the host's program, a reset change say, takes effect at its
own time and uses up no tick. -/
def HostLine.effect (line : HostLine) (gap : Nat) (s : State) : Host.Outcome State Fault Refusal :=
  match line.code with
  | some code =>
    match runTicks gap s with
    | .next t => issue code t
    | .fault r => .fault r
    | .refused r => .refused r
  | none =>
    match line with
    | .ticks n => runTicks n s
    | _ => .next s

/-- One line of the host's program. At the end of the program the host does nothing. -/
def hostLineStep (h : HostAgent) (s : State) : Host.Outcome (HostAgent × State) Fault Refusal :=
  match h.prog[h.pc]? with
  | none => .next (h, s)
  | some line =>
    match line.effect h.gap s with
    | .next t => .next (h.afterLine line t, t)
    | .fault r => .fault r
    | .refused r => .refused r

/-- `n` lines of the host's program. -/
def hostRun : Nat → HostAgent → State → Host.Outcome (HostAgent × State) Fault Refusal
  | 0, h, s => .next (h, s)
  | n + 1, h, s =>
    match hostLineStep h s with
    | .next p => hostRun n p.1 p.2
    | .fault r => .fault r
    | .refused r => .refused r

/-- `currentHumidity()`: RD HUMIDITY / 10, an exact decimal (R116). -/
def currentHumidity (s : State) : Rat := ((humidityWord s).toNat : Rat) / 10

/-- `currentTemperature()`: signed(RD TEMPERATURE) / 10, an exact decimal (R116). -/
def currentTemperature (s : State) : Rat := ((temperatureWord s).toInt : Rat) / 10

end Sys2Proof.Machine
end

