-- ==== Sys2Proof/Safety.lean ====
section
/-! DEFINITION. The terms claims are stated in: the reset values (R20, R230), the invariant of the reachable states (R26,
R27, R32, R33, R35, R133), the transition table (R171), the phases and runs of a decode (R134, R172), and the host's duties
(R214, R215, R235). -/

namespace Sys2Proof.Machine

/-! ### Reset -/

/-- Every state element of R20 at its reset value (R230). -/
def AtReset (s : State) : Prop :=
  s.stateReg.toNat = 0 ∧ s.c.toNat = 0 ∧ s.f = ⟨0#8, 0#8, 0#8, 0#8, 0#8⟩ ∧ s.byteIdx.toNat = 0 ∧ s.bitIdx.toNat = 7 ∧
    s.hum.toNat = 0 ∧ s.temp.toNat = 0 ∧ s.pin = Config.defaultPin

/-! ### The frame as the stream of its bits (R33) -/

/-- F[n]; F[n] with n past 4 is read as F[4] and means nothing. -/
def frameByte (f : Frame) : Nat → Byte
  | 0 => f.b0
  | 1 => f.b1
  | 2 => f.b2
  | 3 => f.b3
  | _ => f.b4

/-- Stream bit k: `F[k div 8][7 - (k mod 8)]` (R33). -/
def streamBit (f : Frame) (k : Nat) : Bool := (frameByte f (k / 8)).getLsbD (7 - k % 8)

/-- `8*BYTEIDX + (7 - BITIDX)`, the number of bits packed so far (R33). -/
def packedBits (s : State) : Nat := 8 * s.byteIdx.toNat + (7 - s.bitIdx.toNat)

/-- A byte from 8 bits, the first the most significant (R67). -/
def byteOfBits (bits : List Bool) : Byte := BitVec.ofNat 8 (bits.foldl (fun n b => 2 * n + b.toNat) 0)

/-- The frame that 40 bits make, byte 0 first (R30, R67). -/
def frameOfBits (bits : List Bool) : Frame where
  b0 := byteOfBits (bits.take 8)
  b1 := byteOfBits ((bits.drop 8).take 8)
  b2 := byteOfBits ((bits.drop 16).take 8)
  b3 := byteOfBits ((bits.drop 24).take 8)
  b4 := byteOfBits ((bits.drop 32).take 8)

/-! ### The invariant -/

/-- What holds at reset and after every step, whatever the host, the line and the reset input do. -/
structure Inv (s : State) : Prop where
  /-- No reserved code (R26). -/
  code : s.stateReg.toNat ≤ 10
  /-- C never reaches T_WAKE (R27, R150). -/
  counter : s.c.toNat < 3000
  /-- The request pulse is counted below T_REQ (R151). -/
  reqHigh : s.stateReg = stReqHigh → s.c.toNat < 25
  /-- C stays in 0..T+1 in ACK_LOW (R132, R133). -/
  ackLow : s.stateReg = stAckLow → s.c.toNat ≤ 86
  /-- C stays in 1..T+1 in ACK_HIGH (R132, R133). -/
  ackHigh : s.stateReg = stAckHigh → 1 ≤ s.c.toNat ∧ s.c.toNat ≤ 86
  /-- C stays in 1..T+1 in BIT_LOW (R132, R133). -/
  bitLow : s.stateReg = stBitLow → 1 ≤ s.c.toNat ∧ s.c.toNat ≤ 57
  /-- C stays in 1..T+1 in BIT_HIGH (R132, R133). -/
  bitHigh : s.stateReg = stBitHigh → 1 ≤ s.c.toNat ∧ s.c.toNat ≤ 76
  /-- BYTEIDX 6 and 7 are never reached (R32). -/
  byteIdx : s.byteIdx.toNat ≤ 5
  /-- Until the bit loop, the frame and the position are as START left them (R101). -/
  fresh : 1 ≤ s.stateReg.toNat → s.stateReg.toNat ≤ 4 →
    s.f = Frame.zero ∧ s.byteIdx.toNat = 0 ∧ s.bitIdx.toNat = 7
  /-- In the bit loop fewer than 40 bits are packed, and the bits not yet packed are 0 (R33, R156). -/
  loop : s.stateReg = stBitLow ∨ s.stateReg = stBitHigh →
    s.byteIdx.toNat ≤ 4 ∧ ∀ k, k < 40 → packedBits s ≤ k → streamBit s.f k = false
  /-- VALIDATE comes after exactly 40 packed bits (R156). -/
  validate : s.stateReg = stValidate → s.byteIdx.toNat = 5 ∧ s.bitIdx.toNat = 7
  /-- TEMP is in -32767..32767 (R35, R163). -/
  temp : s.temp.toNat ≠ 0x8000
  /-- The time base is never past its tick. -/
  phase : s.phase ≤ Config.tickNs
  /-- While reset is asserted every element holds its reset value (R230). -/
  reset : s.resetLine = true → AtReset s

/-! ### Transitions -/

/-- The engine's rows of the transition table (R171). -/
def engineTransition (a b : BitVec 4) : Prop :=
  (a = stWakeLow ∧ b = stReqHigh) ∨ (a = stReqHigh ∧ b = stAckLow) ∨
  (a = stAckLow ∧ (b = stAckHigh ∨ b = stTimeoutErr)) ∨ (a = stAckHigh ∧ (b = stBitLow ∨ b = stTimeoutErr)) ∨
  (a = stBitLow ∧ (b = stBitHigh ∨ b = stTimeoutErr)) ∨
  (a = stBitHigh ∧ (b = stBitLow ∨ b = stValidate ∨ b = stTimeoutErr)) ∨
  (a = stValidate ∧ (b = stSuccess ∨ b = stChecksumErr)) ∨ (11 ≤ a.toNat ∧ b = stIdle)

/-- The next event is this host access: it is due before the tick (the moment of the tick itself is log 8's). -/
def HostAccessNext (s : State) (op : BitVec 9) (wdata : Word) : Prop :=
  ∃ d ps, s.pending = { delay := d, action := .bus op wdata } :: ps ∧ d < Config.tickNs - s.phase

/-- The next event is this change of the reset input: it is due by the tick (at its very moment, and at once between two
ticks: log 8, DEDUCED). -/
def ResetChangeNext (s : State) (asserted : Bool) : Prop :=
  ∃ d ps, s.pending = { delay := d, action := .resetInput asserted } :: ps ∧ d ≤ Config.tickNs - s.phase

/-- Nothing is pending before the next tick: the next event is the tick (what comes first at its very moment: log 8). -/
def TickNext (s : State) : Prop :=
  s.pending = [] ∨
  (∃ d op w ps, s.pending = { delay := d, action := .bus op w } :: ps ∧ Config.tickNs - s.phase ≤ d) ∨
  (∃ d l ps, s.pending = { delay := d, action := .resetInput l } :: ps ∧ Config.tickNs - s.phase < d)

/-! ### A decode as 82 phases (R172): ACK_LOW, ACK_HIGH, then BIT_LOW(k), BIT_HIGH(k) for k = 0..39 -/

/-- The STATE code of phase j. -/
def phaseState (j : Nat) : BitVec 4 :=
  if j = 0 then stAckLow else if j = 1 then stAckHigh else if j % 2 = 0 then stBitLow else stBitHigh

/-- The target level of phase j (R139): levels alternate, low first. -/
def phaseLevel (j : Nat) : Level := if j % 2 = 0 then .low else .high

/-- The bound T of phase j (R139). -/
def phaseBound (j : Nat) : Nat := if j = 0 then 85 else if j = 1 then 85 else if j % 2 = 0 then 56 else 75

/-- The samples of runs of the target levels, from phase j on. -/
def samplesFrom : Nat → List Nat → List Level
  | _, [] => []
  | j, r :: rs => List.replicate r (phaseLevel j) ++ samplesFrom (j + 1) rs

/-- Every run ends its phase with Done (R134, R135): at most T + 1 samples, and at least one after phase 0. -/
def RunsInBounds (runs : List Nat) : Prop :=
  ∀ j r, runs[j]? = some r → r ≤ phaseBound j + 1 ∧ (j = 0 ∨ 1 ≤ r)

/-- Bit k is `Classify(r of BIT_HIGH(k))` (R172), BIT_HIGH(k) being phase 2k + 3. -/
def bitsOfRuns (runs : List Nat) : List Bool := (List.range 40).map fun k => classify (runs.getD (2 * k + 3) 0)

/-- What an accepted START leaves (R101), with nothing else to come from the host and reset not asserted. -/
def Started (s : State) : Prop :=
  s.stateReg = stWakeLow ∧ s.c = 0#12 ∧ s.f = Frame.zero ∧ s.byteIdx = 0#3 ∧ s.bitIdx = 7#3 ∧ s.pending = [] ∧
    s.resetLine = false

/-- The frame `f` is received without a timeout (R173): 82 runs within their bounds, whose classified high phases are the
stream bits of `f` (R33, R172). -/
def FrameReceived (f : Frame) (runs : List Nat) : Prop :=
  runs.length = 82 ∧ RunsInBounds runs ∧ ∀ k, k < 40 → streamBit f k = classify (runs.getD (2 * k + 3) 0)

/-- `F[4] == (F[0]+F[1]+F[2]+F[3]) & 0xFF`, in numbers (R173). -/
def ChecksumAgrees (f : Frame) : Prop := f.b4.toNat = (f.b0.toNat + f.b1.toNat + f.b2.toNat + f.b3.toNat) % 256

/-- The source's testable properties (R173), claim by claim, of a decode that an accepted START began. -/
structure SourceProperties : Prop where
  /-- Claim 1. -/
  goodFrameSucceeds : ∀ (s : State) (f : Frame) (runs : List Nat) (rest : List Level),
    Started s → s.line = samplesFrom 0 runs ++ .low :: rest → FrameReceived f runs → ChecksumAgrees f →
    ∃ n t, runSteps n s = .next t ∧ t.stateReg.toNat = 8 ∧ t.hum.toNat = f.b0.toNat * 256 + f.b1.toNat ∧
      t.temp.toInt = (if f.b2.getLsbD 7 then -1 else 1) * (((f.b2.toNat % 128) * 256 + f.b3.toNat : Nat) : Int)
  /-- Claim 2. -/
  badFrameFails : ∀ (s : State) (f : Frame) (runs : List Nat) (rest : List Level),
    Started s → s.line = samplesFrom 0 runs ++ .low :: rest → FrameReceived f runs → ¬ChecksumAgrees f →
    ∃ n t, runSteps n s = .next t ∧ t.stateReg.toNat = 10 ∧ t.hum = s.hum ∧ t.temp = s.temp
  /-- Claim 3: "without attempting subsequent phases" is that no sample after the phase's read T + 1 is read. -/
  overrunTimesOut : ∀ (s : State) (runs : List Nat) (r : Nat) (rest : List Level),
    Started s → runs.length < 82 → RunsInBounds runs → phaseBound runs.length + 2 ≤ r →
    s.line = samplesFrom 0 runs ++ List.replicate r (phaseLevel runs.length) ++ rest →
    ∃ n u t, runSteps n s = .next u ∧ u.stateReg = phaseState runs.length ∧ step u = .next t ∧ t.stateReg.toNat = 9 ∧
      t.line = List.replicate (r - (phaseBound runs.length + 2)) (phaseLevel runs.length) ++ rest
  /-- Claim 4. -/
  classifyMonotonic : (∀ d e, d ≤ e → classify d = true → classify e = true) ∧ classify 40 = false ∧ classify 41 = true
  /-- Claim 5: the first received bit is F[0][7] and the last is F[4][0]. -/
  streamOrder : ∀ (s : State) (runs : List Nat) (rest : List Level),
    Started s → s.line = samplesFrom 0 runs ++ .low :: rest → runs.length = 82 → RunsInBounds runs →
    ∃ n t, runSteps n s = .next t ∧ 8 ≤ t.stateReg.toNat ∧ t.f.b0.getLsbD 7 = classify (runs.getD 3 0) ∧
      t.f.b4.getLsbD 0 = classify (runs.getD 81 0)

/-! ### The opcode map (R91, R92) as rows: a code matches a row when `code &&& mask = value`, and the first match counts -/

/-- A row of the opcode table: its mnemonic, the value matched and the mask. -/
structure OpRow (w : Nat) where
  mnemonic : String
  value : BitVec w
  mask : BitVec w
deriving DecidableEq, Repr

/-- R91. -/
def hostRows : List (OpRow 9) :=
  [⟨"RD.CTRL", 0x000#9, 0x1FF#9⟩, ⟨"WR.CTRL", 0x100#9, 0x1FF#9⟩, ⟨"RD.STATUS", 0x004#9, 0x1FF#9⟩,
   ⟨"WR.STATUS", 0x104#9, 0x1FF#9⟩, ⟨"RD.HUMIDITY", 0x008#9, 0x1FF#9⟩, ⟨"WR.HUMIDITY", 0x108#9, 0x1FF#9⟩,
   ⟨"RD.TEMPERATURE", 0x00C#9, 0x1FF#9⟩, ⟨"WR.TEMPERATURE", 0x10C#9, 0x1FF#9⟩, ⟨"RD.READING", 0x010#9, 0x1FF#9⟩,
   ⟨"WR.READING", 0x110#9, 0x1FF#9⟩, ⟨"RD.PIN", 0x014#9, 0x1FF#9⟩, ⟨"WR.PIN", 0x114#9, 0x1FF#9⟩] ++
  [⟨"RD.UNMAPPED", 0x000#9, 0x100#9⟩, ⟨"WR.UNMAPPED", 0x100#9, 0x100#9⟩]

/-- R92. -/
def engineRows : List (OpRow 4) :=
  [⟨"ENG.IDLE", 0x0#4, 0xF#4⟩, ⟨"ENG.WAKE_LOW", 0x1#4, 0xF#4⟩, ⟨"ENG.REQ_HIGH", 0x2#4, 0xF#4⟩,
   ⟨"ENG.ACK_LOW", 0x3#4, 0xF#4⟩, ⟨"ENG.ACK_HIGH", 0x4#4, 0xF#4⟩, ⟨"ENG.BIT_LOW", 0x5#4, 0xF#4⟩,
   ⟨"ENG.BIT_HIGH", 0x6#4, 0xF#4⟩, ⟨"ENG.VALIDATE", 0x7#4, 0xF#4⟩, ⟨"ENG.SUCCESS", 0x8#4, 0xF#4⟩,
   ⟨"ENG.TIMEOUT_ERR", 0x9#4, 0xF#4⟩, ⟨"ENG.CHECKSUM_ERR", 0xA#4, 0xF#4⟩] ++
  [⟨"ENG.RESERVED", 0x8#4, 0x8#4⟩]

/-- The mnemonic of the first row that a code matches. -/
def firstMatch {w : Nat} (rows : List (OpRow w)) (code : BitVec w) : Option String :=
  (rows.find? fun r => code &&& r.mask == r.value).map (·.mnemonic)

/-- An instruction's mnemonic in the opcode table. -/
def mnemonicOf : Instr → String
  | .rdCtrl => "RD.CTRL"
  | .wrCtrl _ => "WR.CTRL"
  | .rdStatus => "RD.STATUS"
  | .wrStatus _ => "WR.STATUS"
  | .rdHumidity => "RD.HUMIDITY"
  | .wrHumidity _ => "WR.HUMIDITY"
  | .rdTemperature => "RD.TEMPERATURE"
  | .wrTemperature _ => "WR.TEMPERATURE"
  | .rdReading => "RD.READING"
  | .wrReading _ => "WR.READING"
  | .rdPin => "RD.PIN"
  | .wrPin _ => "WR.PIN"
  | .rdUnmapped _ => "RD.UNMAPPED"
  | .wrUnmapped _ _ => "WR.UNMAPPED"
  | .engIdle => "ENG.IDLE"
  | .engWakeLow => "ENG.WAKE_LOW"
  | .engReqHigh => "ENG.REQ_HIGH"
  | .engAckLow _ => "ENG.ACK_LOW"
  | .engAckHigh _ => "ENG.ACK_HIGH"
  | .engBitLow _ => "ENG.BIT_LOW"
  | .engBitHigh _ => "ENG.BIT_HIGH"
  | .engValidate => "ENG.VALIDATE"
  | .engSuccess => "ENG.SUCCESS"
  | .engTimeoutErr => "ENG.TIMEOUT_ERR"
  | .engChecksumErr => "ENG.CHECKSUM_ERR"
  | .engReserved _ => "ENG.RESERVED"

/-! ### The host's duties -/

/-- A START written now would come less than MIN_INTERVAL after the last accepted one, or after reset (R235, log 10). -/
def startTooSoon (s : State) : Prop := s.tickNo < Config.minInterval

/-- Two instances do not share a pad while either is busy (R215, R236). -/
def padsExclusive (s t : State) : Prop := busy s ∨ busy t → padSel s ≠ padSel t

end Sys2Proof.Machine
end

