-- ==== Sys2Proof/Certificates/Slice0/Obligations.lean ====
section
/-! DEFINITION. The statements for the provers. Each docstring names the rule of spec/ it formalises. -/

open Sys2Proof Sys2Proof.Machine

/-! ### Reset -/

/-- R230 on the state right after reset: every element of R20 at its reset value, the pad released, and what the host
then reads. -/
def Obligations.ResetStateHoldsSpecValues : Prop :=
  AtReset State.reset ∧ padOe State.reset = false ∧ padOut State.reset = false ∧ busy State.reset = false ∧
  memRead State.reset 0x04#8 = 0#32 ∧ memRead State.reset 0x08#8 = 0#32 ∧ memRead State.reset 0x0C#8 = 0#32 ∧
  memRead State.reset 0x10#8 = 0#32 ∧ (memRead State.reset 0x14#8).toNat = Config.defaultPin.toNat

/-- R230: reset may be asserted in any state and wins over a tick it coincides with; while it is asserted, and after it is
released, every element holds its reset value, the time base has restarted and the pad is released. The model's own: reset takes effect
at the time it comes, before the next tick too, though R230 calls it synchronous (log 8, DEDUCED); the reset input is a level
in State (log 9); the phase, in ns, becomes 0 (log 2, log 10); RDATA is kept (log 4). -/
def Obligations.ResetOverridesEveryEvent : Prop :=
  (∀ (s : State) (d : Nat) (ps : List Pending),
    s.pending = { delay := d, action := .resetInput true } :: ps → d ≤ 1000 - s.phase →
    ∃ t, step s = .next t ∧ AtReset t ∧ t.phase = 0 ∧ t.resetLine = true ∧ padOe t = false ∧ padOut t = false ∧
      t.pending = ps ∧ t.line = s.line ∧ t.rdata = s.rdata) ∧
  (∀ s : State, s.resetLine = true →
    ∃ t, step s = .next t ∧ AtReset t ∧ t.phase = 0 ∧ padOe t = false ∧ padOut t = false ∧
      memRead t 0x04#8 = 0#32 ∧ memRead t 0x08#8 = 0#32 ∧ memRead t 0x0C#8 = 0#32 ∧ memRead t 0x10#8 = 0#32 ∧
      (memRead t 0x14#8).toNat = Config.defaultPin.toNat) ∧
  (∀ (s : State) (d : Nat) (ps : List Pending), s.resetLine = true →
    s.pending = { delay := d, action := .resetInput false } :: ps → d ≤ 1000 - s.phase →
    ∃ t, step s = .next t ∧ AtReset t ∧ t.phase = 0 ∧ t.resetLine = false)

/-! ### What a step runs -/

/-- A step runs the decoded instruction (R14, R70, R82): a host access that comes before the tick is run on the state with
the access taken off the pending ones and its time passed; a tick is run on the state with the time base advanced and, in
states 3..6 only, one sample read. The model's own: the pending list and the ns (log 1, log 2), the free sample read when the
line lists none (log 3), and what comes first at the moment of a tick, a reset before it and an access after it (log 8,
DEDUCED). -/
def Obligations.StepRunsDecodedInstruction : Prop :=
  ∀ s : State, s.resetLine = false →
    (∀ d op w ps, s.pending = { delay := d, action := .bus op w } :: ps → s.phase + d < 1000 →
      step s = exec (decode (.hbus op w)) { s with pending := ps, phase := s.phase + d }) ∧
    (TickNext s →
      (∀ l ls, 3 ≤ s.stateReg.toNat → s.stateReg.toNat ≤ 6 → s.line = l :: ls →
        step s = exec (decode (.fsm s.stateReg l))
          { s with line := ls, pending := passTime (1000 - s.phase) s.pending, phase := 0, tickNo := s.tickNo + 1 }) ∧
      (3 ≤ s.stateReg.toNat → s.stateReg.toNat ≤ 6 → s.line = [] →
        step s = exec (decode (.fsm s.stateReg (Config.freeSample s.draws)))
          { s with
            draws := s.draws + 1, pending := passTime (1000 - s.phase) s.pending, phase := 0,
            tickNo := s.tickNo + 1 }) ∧
      (∀ l, ¬(3 ≤ s.stateReg.toNat ∧ s.stateReg.toNat ≤ 6) →
        step s = exec (decode (.fsm s.stateReg l))
          { s with pending := passTime (1000 - s.phase) s.pending, phase := 0, tickNo := s.tickNo + 1 }))

/-- R200: no host operation and no engine step can fault; every step of every state answers a next state. -/
def Obligations.EveryStepAnswersNextState : Prop := ∀ s : State, ∃ t, step s = .next t

/-- A release of the reset input while reset is not asserted has no effect beside its time having passed (R230). The level of
the input and the ns are the model's (log 2, log 9), and so is a release that comes first at the moment of a tick (log 8). -/
def Obligations.ResetReleaseWhileReleasedHasNoEffect : Prop :=
  ∀ (s : State) (d : Nat) (ps : List Pending), s.resetLine = false →
    s.pending = { delay := d, action := .resetInput false } :: ps → s.phase + d ≤ 1000 →
    step s = .next { s with pending := ps, phase := s.phase + d }

/-! ### Decoding -/

/-- A few words of the opcode map, written out from R81, R91 and R92. The last three clauses are the model's own reading of an
opcode-table word, no rule's: up to 8 bits are an FSM code and more an HBUS one (log 12), in the model's byte image, which
refuses a bit above OP[8] (log 11). -/
def Obligations.SpecWordsDecodeAsTheMapSays : Prop :=
  decode (.hbus 0b100000000#9 0x00000001#32) = .wrCtrl 0x00000001#32 ∧
  decode (.hbus 0b000000100#9 0#32) = .rdStatus ∧
  decode (.hbus 0b100010100#9 0x00000004#32) = .wrPin 0x00000004#32 ∧
  decode (.hbus 0b000000101#9 0#32) = .rdUnmapped 0x05#8 ∧
  decode (.hbus 0b100000001#9 0x00000001#32) = .wrUnmapped 0x01#8 0x00000001#32 ∧
  decode (.fsm 0b0110#4 .high) = .engBitHigh .high ∧
  decode (.fsm 0b1000#4 .low) = .engSuccess ∧
  decode (.fsm 0b1100#4 .low) = .engReserved 12#4 ∧
  decodeTableWord 16 0x10C = some (.wrTemperature 0#32) ∧
  decodeTableWord 8 0x7 = some .engValidate ∧
  decodeTableWord 16 0x200 = none

/-- R91, R92: the decoded instruction's row is the first row of the map that the selector matches under its mask, the two
unmapped rows and ENG.RESERVED coming last. -/
def Obligations.DecodePicksFirstMatchingRow : Prop :=
  (∀ (op : BitVec 9) (w : Word), firstMatch hostRows op = some (mnemonicOf (decode (.hbus op w)))) ∧
  (∀ (st : BitVec 4) (l : Level), firstMatch engineRows st = some (mnemonicOf (decode (.fsm st l))))

/-- Decode and encode agree, over bytes: whatever follows, the bytes of every well-formed instruction are read back as it,
with every operand at every value. The byte image is the model's own (log 11). -/
def Obligations.DecodeBytesOfEncodeBytes : Prop :=
  ∀ (i : Instr) (rest : List Byte), i.wellFormed = true →
    decodeBytes i.format (encodeBytes i ++ rest) = .ok (i, rest)

/-- R93: no selector is illegal: every one decodes to a well-formed instruction, which encodes to the same selector with
the payload that the row reads (WDATA on writes, the sample in states 3..6). -/
def Obligations.EncodeOfDecodeKeepsWhatTheRowReads : Prop :=
  (∀ (op : BitVec 9) (w : Word), (decode (.hbus op w)).wellFormed = true ∧
    encode (decode (.hbus op w)) = .hbus op (if op.getLsbD 8 then w else 0#32)) ∧
  (∀ (st : BitVec 4) (l : Level), (decode (.fsm st l)).wellFormed = true ∧
    encode (decode (.fsm st l)) = .fsm st (if 3 ≤ st.toNat ∧ st.toNat ≤ 6 then l else .low))

/-! ### Host operations -/

/-- R102, R113: RD.CTRL and RD.UNMAPPED answer 0 in every state and change nothing else. -/
def Obligations.ControlAndUnmappedReadsAnswerZero : Prop :=
  ∀ s : State,
    (∀ w, decode (.hbus 0x000#9 w) = .rdCtrl) ∧
    exec .rdCtrl s = .next { s with rdata := 0x00000000#32 } ∧
    (∀ (op : BitVec 9) (w : Word), op.getLsbD 8 = false → isMapped (op.extractLsb' 0 8) = false →
      decode (.hbus op w) = .rdUnmapped (op.extractLsb' 0 8)) ∧
    (∀ addr, exec (.rdUnmapped addr) s = .next { s with rdata := 0x00000000#32 })

/-- R103: RD.STATUS answers STATE in bits 7:4, RESULT in bits 2:1 and BUSY in bit 0, and changes nothing else. -/
def Obligations.StatusReadShowsStateResultBusy : Prop :=
  ∀ (s : State) (w : Word), decode (.hbus 0x004#9 w) = .rdStatus ∧
    ∃ v, exec .rdStatus s = .next { s with rdata := v } ∧
      v.toNat = 16 * s.stateReg.toNat +
        2 * (if s.stateReg.toNat = 8 then 1 else if s.stateReg.toNat = 9 then 2
             else if s.stateReg.toNat = 10 then 3 else 0) +
        (if 1 ≤ s.stateReg.toNat ∧ s.stateReg.toNat ≤ 7 then 1 else 0)

/-- R105, R107, R109: the three reading registers: HUM zero-extended, TEMP sign-extended, TEMP above HUM. Nothing else
changes. -/
def Obligations.ReadingRegistersAnswerLastGoodReading : Prop :=
  ∀ (s : State) (w : Word),
    (decode (.hbus 0x008#9 w) = .rdHumidity ∧
      ∃ v, exec .rdHumidity s = .next { s with rdata := v } ∧ v.toNat = s.hum.toNat) ∧
    (decode (.hbus 0x00C#9 w) = .rdTemperature ∧
      ∃ v, exec .rdTemperature s = .next { s with rdata := v } ∧ v.toInt = s.temp.toInt) ∧
    (decode (.hbus 0x010#9 w) = .rdReading ∧
      ∃ v, exec .rdReading s = .next { s with rdata := v } ∧ v.toNat = s.temp.toNat * 65536 + s.hum.toNat)

/-- R112: RD.PIN answers PIN zero-extended and changes nothing else; after reset that is DEFAULT_PIN. -/
def Obligations.PinReadAnswersPinIdentifier : Prop :=
  (∀ (s : State) (w : Word), decode (.hbus 0x014#9 w) = .rdPin ∧
    ∃ v, exec .rdPin s = .next { s with rdata := v } ∧ v.toNat = s.pin.toNat) ∧
  State.reset.pin = Config.defaultPin

/-- R101: WR.CTRL with bit 0 set starts a decode when the block is not busy: WAKE_LOW, C and the frame cleared, the position
at (0, 7), the time base restarted, the line driven low, STATUS reading 0x11; HUM, TEMP and PIN are kept. With bit 0 clear,
or while busy, it has no effect. No interval is enforced. -/
def Obligations.ControlWriteStartsDecodeUnlessBusy : Prop :=
  ∀ (s : State) (w : Word), decode (.hbus 0x100#9 w) = .wrCtrl w ∧
    (w.toNat % 2 = 1 → ¬(1 ≤ s.stateReg.toNat ∧ s.stateReg.toNat ≤ 7) →
      ∃ t, exec (.wrCtrl w) s = .next t ∧
        t = { s with
              stateReg := 1#4, c := 0#12, f := ⟨0x00#8, 0x00#8, 0x00#8, 0x00#8, 0x00#8⟩, byteIdx := 0#3, bitIdx := 7#3,
              phase := 0, tickNo := 0 } ∧
        padOe t = true ∧ padOut t = false ∧ memRead t 0x04#8 = 0x00000011#32) ∧
    (w.toNat % 2 = 0 ∨ (1 ≤ s.stateReg.toNat ∧ s.stateReg.toNat ≤ 7) → exec (.wrCtrl w) s = .next s)

/-- R104, R106, R108, R110, R114: writes to the read-only registers and to unmapped addresses complete and change nothing,
whatever the state and the data. -/
def Obligations.ReadOnlyAndUnmappedWritesChangeNothing : Prop :=
  ∀ (s : State) (w : Word),
    (decode (.hbus 0x104#9 w) = .wrStatus w ∧ exec (.wrStatus w) s = .next s) ∧
    (decode (.hbus 0x108#9 w) = .wrHumidity w ∧ exec (.wrHumidity w) s = .next s) ∧
    (decode (.hbus 0x10C#9 w) = .wrTemperature w ∧ exec (.wrTemperature w) s = .next s) ∧
    (decode (.hbus 0x110#9 w) = .wrReading w ∧ exec (.wrReading w) s = .next s) ∧
    (∀ op : BitVec 9, op.getLsbD 8 = true → isMapped (op.extractLsb' 0 8) = false →
      decode (.hbus op w) = .wrUnmapped (op.extractLsb' 0 8) w) ∧
    (∀ addr, exec (.wrUnmapped addr w) s = .next s)

/-- R111: WR.PIN takes WDATA[7:0] when not busy, PAD_SEL following at once; while busy it has no effect. -/
def Obligations.PinWriteTakesLowByteUnlessBusy : Prop :=
  ∀ (s : State) (w : Word), decode (.hbus 0x114#9 w) = .wrPin w ∧
    (¬(1 ≤ s.stateReg.toNat ∧ s.stateReg.toNat ≤ 7) →
      ∃ t, exec (.wrPin w) s = .next t ∧ t = { s with pin := t.pin } ∧ t.pin.toNat = w.toNat % 256 ∧
        padSel t = t.pin) ∧
    (1 ≤ s.stateReg.toNat ∧ s.stateReg.toNat ≤ 7 → exec (.wrPin w) s = .next s)

/-- R60, R61, R62, R65: every bus access is a read or a write of the register space at its address; an address outside the
six offsets, and so every misaligned one, reads 0 and ignores writes. -/
def Obligations.BusAccessIsRegisterSpaceAccess : Prop :=
  (∀ (s : State) (op : BitVec 9) (w : Word),
    exec (decode (.hbus op w)) s =
      .next (if op.getLsbD 8 then memWrite s (op.extractLsb' 0 8) w
             else { s with rdata := memRead s (op.extractLsb' 0 8) })) ∧
  (∀ (s : State) (addr : Addr) (w : Word), addr.toNat % 4 ≠ 0 ∨ 0x14 < addr.toNat →
    memRead s addr = 0#32 ∧ memWrite s addr w = s)

/-- R66: the byte at offset j of a register is bits [8j+7:8j] of its word: the four bytes, the lowest offset the least
significant, make the word. -/
def Obligations.RegisterBytesAreLittleEndian : Prop :=
  ∀ (s : State) (addr : Addr),
    (memRead s addr).toNat = (busByte s addr 0).toNat + 256 * (busByte s addr 1).toNat +
      65536 * (busByte s addr 2).toNat + 16777216 * (busByte s addr 3).toNat

/-- R47: C, F, BYTEIDX, BITIDX and the time base are hidden: two states that agree on STATE, HUM, TEMP and PIN answer every
host read alike, and after the same write they still agree on them. -/
def Obligations.HostAccessRevealsNoHiddenState : Prop :=
  ∀ (s s' : State) (op : BitVec 9) (w : Word),
    s.stateReg = s'.stateReg → s.hum = s'.hum → s.temp = s'.temp → s.pin = s'.pin → s.rdata = s'.rdata →
    ∃ t t', exec (decode (.hbus op w)) s = .next t ∧ exec (decode (.hbus op w)) s' = .next t' ∧
      t.rdata = t'.rdata ∧ t.stateReg = t'.stateReg ∧ t.hum = t'.hum ∧ t.temp = t'.temp ∧ t.pin = t'.pin

/-- R210, R239, R240: no host operation aborts or disturbs a decode in flight: a host access while busy changes RDATA at
most, beside the access being taken and its time having passed. -/
def Obligations.HostAccessWhileBusyLeavesDecodeAlone : Prop :=
  ∀ (s : State) (d : Nat) (op : BitVec 9) (w : Word) (ps : List Pending),
    1 ≤ s.stateReg.toNat → s.stateReg.toNat ≤ 7 → s.resetLine = false →
    s.pending = { delay := d, action := .bus op w } :: ps → s.phase + d < 1000 →
    ∃ v, step s = .next { s with pending := ps, phase := s.phase + d, rdata := v }

/-- R71: an accepted START is visible to the next access with no tick in between: a STATUS read returns BUSY = 1 and
STATE = 1, and a PIN write is ignored. -/
def Obligations.StartIsVisibleToTheNextAccess : Prop :=
  ∀ (s : State) (d d' : Nat) (w x : Word) (ps : List Pending),
    ¬(1 ≤ s.stateReg.toNat ∧ s.stateReg.toNat ≤ 7) → s.resetLine = false → w.toNat % 2 = 1 →
    s.phase + d < 1000 → d' < 1000 →
    (s.pending = { delay := d, action := .bus 0x100#9 w } :: { delay := d', action := .bus 0x004#9 x } :: ps →
      ∃ t, runSteps 2 s = .next t ∧ t.rdata = 0x00000011#32 ∧ t.stateReg.toNat = 1 ∧ t.tickNo = 0) ∧
    (s.pending = { delay := d, action := .bus 0x100#9 w } :: { delay := d', action := .bus 0x114#9 x } :: ps →
      ∃ t, runSteps 2 s = .next t ∧ t.pin = s.pin ∧ t.stateReg.toNat = 1 ∧ t.tickNo = 0)

/-- R46: an accepted START restarts the time base: wherever in the tick it came, the next tick, tick 1, comes a whole tick
later, and anything the host does sooner comes before it. The model's own: the ns (log 2), the tick number 0 (log 10), and that
an access due at the moment of tick 1 comes after it (log 8, DEDUCED). -/
def Obligations.StartRestartsTheTimeBase : Prop :=
  ∀ (s : State) (d : Nat) (w : Word) (ps : List Pending),
    ¬(1 ≤ s.stateReg.toNat ∧ s.stateReg.toNat ≤ 7) → s.resetLine = false → w.toNat % 2 = 1 →
    s.pending = { delay := d, action := .bus 0x100#9 w } :: ps → s.phase + d < 1000 →
    ∃ t, step s = .next t ∧ t.phase = 0 ∧ t.tickNo = 0 ∧ t.pending = ps ∧
      (∀ d' op x ps', ps = { delay := d', action := .bus op x } :: ps' →
        ∃ u, step t = .next u ∧ (d' < 1000 → u.tickNo = 0 ∧ u.pending = ps') ∧
          (1000 ≤ d' → u.tickNo = 1 ∧ u.pending = { delay := d' - 1000, action := .bus op x } :: ps'))

/-! ### Engine steps -/

/-- R150: WAKE_LOW counts ticks, with the pad driven low; the tick that makes the count 3000 enters REQ_HIGH with C = 0. -/
def Obligations.WakeLowCountsToThreeThousand : Prop :=
  ∀ s : State, (∀ l, decode (.fsm 1#4 l) = .engWakeLow) ∧
    (s.c.toNat + 1 = 3000 → exec .engWakeLow s = .next { s with stateReg := 2#4, c := 0#12 }) ∧
    (s.c.toNat + 1 ≠ 3000 → exec .engWakeLow s = .next { s with c := s.c + 1#12 }) ∧
    (s.stateReg = 1#4 → padOe s = true ∧ padOut s = false)

/-- R151: REQ_HIGH counts ticks, with the pad driven high; the tick that makes the count 25 enters ACK_LOW with C = 0, the
pad then being an input. -/
def Obligations.ReqHighCountsToTwentyFive : Prop :=
  ∀ s : State, (∀ l, decode (.fsm 2#4 l) = .engReqHigh) ∧
    (s.c.toNat + 1 = 25 →
      ∃ t, exec .engReqHigh s = .next t ∧ t = { s with stateReg := 3#4, c := 0#12 } ∧ padOe t = false) ∧
    (s.c.toNat + 1 ≠ 25 → exec .engReqHigh s = .next { s with c := s.c + 1#12 }) ∧
    (s.stateReg = 2#4 → padOe s = true ∧ padOut s = true)

/-- R152: ACK_LOW is WAIT(0, 85): a high sample enters ACK_HIGH with C = 1, a low one times out when C exceeds 85 and else
counts. Nothing else changes. -/
def Obligations.AckLowWaitsWhileLow : Prop :=
  ∀ s : State, (∀ l, decode (.fsm 3#4 l) = .engAckLow l) ∧
    exec (.engAckLow .high) s = .next { s with stateReg := 4#4, c := 1#12 } ∧
    (85 < s.c.toNat → exec (.engAckLow .low) s = .next { s with stateReg := 9#4 }) ∧
    (s.c.toNat ≤ 85 → exec (.engAckLow .low) s = .next { s with c := s.c + 1#12 })

/-- R153: ACK_HIGH is WAIT(1, 85): a low sample enters BIT_LOW with C = 1, a high one times out when C exceeds 85 and else
counts. Nothing else changes. -/
def Obligations.AckHighWaitsWhileHigh : Prop :=
  ∀ s : State, (∀ l, decode (.fsm 4#4 l) = .engAckHigh l) ∧
    exec (.engAckHigh .low) s = .next { s with stateReg := 5#4, c := 1#12 } ∧
    (85 < s.c.toNat → exec (.engAckHigh .high) s = .next { s with stateReg := 9#4 }) ∧
    (s.c.toNat ≤ 85 → exec (.engAckHigh .high) s = .next { s with c := s.c + 1#12 })

/-- R154: BIT_LOW is WAIT(0, 56): a high sample enters BIT_HIGH with C = 1, a low one times out when C exceeds 56 and else
counts. Nothing else changes. -/
def Obligations.BitLowWaitsWhileLow : Prop :=
  ∀ s : State, (∀ l, decode (.fsm 5#4 l) = .engBitLow l) ∧
    exec (.engBitLow .high) s = .next { s with stateReg := 6#4, c := 1#12 } ∧
    (56 < s.c.toNat → exec (.engBitLow .low) s = .next { s with stateReg := 9#4 }) ∧
    (s.c.toNat ≤ 56 → exec (.engBitLow .low) s = .next { s with c := s.c + 1#12 })

/-- R155, R156, R157: BIT_HIGH is WAIT(1, 75). A low sample ends the bit: it is 1 iff C exceeds 40, it goes to the stream
position `8*BYTEIDX + (7 - BITIDX)` of F and to no other, the position advances, and the next state is VALIDATE with C = 0
when BYTEIDX has become 5 and BIT_LOW with C = 1 otherwise. A high sample times out when C exceeds 75, with F and the
position left as they are, and else counts. Nothing else changes. -/
def Obligations.BitHighClassifiesAndPacks : Prop :=
  ∀ s : State, (∀ l, decode (.fsm 6#4 l) = .engBitHigh l) ∧
    (∃ t, exec (.engBitHigh .low) s = .next t ∧
      t = { s with stateReg := t.stateReg, c := t.c, f := t.f, byteIdx := t.byteIdx, bitIdx := t.bitIdx } ∧
      t.bitIdx.toNat = (if s.bitIdx.toNat = 0 then 7 else s.bitIdx.toNat - 1) ∧
      t.byteIdx.toNat = (if s.bitIdx.toNat = 0 then s.byteIdx.toNat + 1 else s.byteIdx.toNat) % 8 ∧
      (t.byteIdx.toNat = 5 → t.stateReg = 7#4 ∧ t.c = 0#12) ∧
      (t.byteIdx.toNat ≠ 5 → t.stateReg = 5#4 ∧ t.c = 1#12) ∧
      (s.c.toNat ≤ 40 → t.f = s.f) ∧
      (40 < s.c.toNat → s.byteIdx.toNat ≤ 4 →
        ∀ k, k < 40 → streamBit t.f k = (streamBit s.f k || k == 8 * s.byteIdx.toNat + (7 - s.bitIdx.toNat)))) ∧
    (75 < s.c.toNat → exec (.engBitHigh .high) s = .next { s with stateReg := 9#4 }) ∧
    (s.c.toNat ≤ 75 → exec (.engBitHigh .high) s = .next { s with c := s.c + 1#12 })

/-- R157: Classify is 1 exactly above 40, so 40 gives 0 and 41 gives 1, and it is monotonic. -/
def Obligations.ClassifyIsStrictlyAboveForty : Prop :=
  (∀ d, classify d = true ↔ 40 < d) ∧ classify 40 = false ∧ classify 41 = true ∧
  (∀ d e, d ≤ e → classify d = true → classify e = true)

/-- R160, R161, R162, R163: VALIDATE compares F[4] with the sum of the other four bytes mod 256. If they agree, HUM becomes
`F[0]*256 + F[1]`, TEMP the sign-magnitude value of F[2], F[3] and STATE 8; if not, STATE becomes 10 and nothing else
changes. -/
def Obligations.ValidateStoresReadingOnMatchingChecksum : Prop :=
  ∀ s : State, (∀ l, decode (.fsm 7#4 l) = .engValidate) ∧
    ((s.f.b0.toNat + s.f.b1.toNat + s.f.b2.toNat + s.f.b3.toNat) % 256 = s.f.b4.toNat →
      ∃ t, exec .engValidate s = .next t ∧
        t = { s with stateReg := 8#4, hum := t.hum, temp := t.temp } ∧
        t.hum.toNat = s.f.b0.toNat * 256 + s.f.b1.toNat ∧
        t.temp.toInt =
          (if 128 ≤ s.f.b2.toNat then -(((s.f.b2.toNat % 128) * 256 + s.f.b3.toNat : Nat) : Int)
           else (((s.f.b2.toNat % 128) * 256 + s.f.b3.toNat : Nat) : Int))) ∧
    ((s.f.b0.toNat + s.f.b1.toNat + s.f.b2.toNat + s.f.b3.toNat) % 256 ≠ s.f.b4.toNat →
      exec .engValidate s = .next { s with stateReg := 10#4 })

/-- R163: the magnitude is F[2][6:0] and F[3], and F[2][7] negates it; every converted temperature is in -32767..32767,
negative zero is 0, and the two extremes are reached. -/
def Obligations.TemperatureIsSignMagnitudeInRange : Prop :=
  (∀ f : Frame, (temperature f).toInt =
    (if 128 ≤ f.b2.toNat then -(((f.b2.toNat % 128) * 256 + f.b3.toNat : Nat) : Int)
     else (((f.b2.toNat % 128) * 256 + f.b3.toNat : Nat) : Int))) ∧
  (∀ f : Frame, -32767 ≤ (temperature f).toInt ∧ (temperature f).toInt ≤ 32767) ∧
  (∀ f : Frame, f.b2 = 0x80#8 → f.b3 = 0x00#8 → (temperature f).toInt = 0) ∧
  (∀ f : Frame, f.b2 = 0xFF#8 → f.b3 = 0xFF#8 → (temperature f).toInt = -32767) ∧
  (∀ f : Frame, f.b2 = 0x7F#8 → f.b3 = 0xFF#8 → (temperature f).toInt = 32767)

/-- R166, R167, R168, R169: in IDLE and the three terminal states the engine step completes and changes nothing,
and the pad is an input. -/
def Obligations.IdleAndTerminalStepsChangeNothing : Prop :=
  ∀ (s : State) (l : Level),
    (decode (.fsm 0#4 l) = .engIdle ∧ exec .engIdle s = .next s) ∧
    (decode (.fsm 8#4 l) = .engSuccess ∧ exec .engSuccess s = .next s) ∧
    (decode (.fsm 9#4 l) = .engTimeoutErr ∧ exec .engTimeoutErr s = .next s) ∧
    (decode (.fsm 10#4 l) = .engChecksumErr ∧ exec .engChecksumErr s = .next s) ∧
    (s.stateReg = 0#4 ∨ s.stateReg = 8#4 ∨ s.stateReg = 9#4 ∨ s.stateReg = 10#4 → padOe s = false)

/-- R170: a reserved code goes to IDLE at the next tick, and nothing else changes. -/
def Obligations.ReservedCodeRecoversToIdle : Prop :=
  ∀ (s : State) (code : BitVec 4),
    (11 ≤ code.toNat → ∀ l, decode (.fsm code l) = .engReserved code) ∧
    exec (.engReserved code) s = .next { s with stateReg := 0#4 }

/-! ### Whole-machine rules -/

/-- The invariant of R26, R27, R32, R33, R35 and R133 holds at reset. -/
def Obligations.ReachableStateInvariantAtReset : Prop := Inv State.reset

/-- Every step keeps that invariant, whatever the host, the line and the reset input do. -/
def Obligations.ReachableStateInvariantKept : Prop :=
  ∀ s t : State, Inv s → step s = .next t → Inv t

/-- R25, R171: STATE changes only by a row of the transition table: an engine step at a tick, an accepted START, or
reset. -/
def Obligations.StateChangesOnlyByTransitionTable : Prop :=
  ∀ s t : State, step s = .next t → t.stateReg ≠ s.stateReg →
    (TickNext s ∧ engineTransition s.stateReg t.stateReg) ∨
    (t.stateReg = 1#4 ∧ ¬(1 ≤ s.stateReg.toNat ∧ s.stateReg.toNat ≤ 7) ∧
      ∃ w : Word, w.toNat % 2 = 1 ∧ HostAccessNext s 0x100#9 w) ∨
    (t.stateReg = 0#4 ∧ (s.resetLine = true ∨ ResetChangeNext s true))

/-- R36: HUM and TEMP are written only by the VALIDATE step of a decode whose checksum matches, both in that step, and by
reset, which clears them. -/
def Obligations.ReadingWrittenOnlyByGoodValidate : Prop :=
  ∀ s t : State, step s = .next t → t.hum ≠ s.hum ∨ t.temp ≠ s.temp →
    (TickNext s ∧ s.stateReg.toNat = 7 ∧ t.stateReg.toNat = 8 ∧
      (s.f.b0.toNat + s.f.b1.toNat + s.f.b2.toNat + s.f.b3.toNat) % 256 = s.f.b4.toNat ∧
      t.hum.toNat = s.f.b0.toNat * 256 + s.f.b1.toNat ∧ t.temp = temperature s.f) ∨
    ((s.resetLine = true ∨ ResetChangeNext s true) ∧ t.hum.toNat = 0 ∧ t.temp.toNat = 0)

/-- R37, R111: PIN changes only by a WR.PIN while not busy, and by reset; so it is constant for the whole of a decode. -/
def Obligations.PinChangesOnlyByHostWriteWhileIdle : Prop :=
  ∀ s t : State, step s = .next t → t.pin ≠ s.pin →
    (¬(1 ≤ s.stateReg.toNat ∧ s.stateReg.toNat ≤ 7) ∧
      ∃ w : Word, HostAccessNext s 0x114#9 w ∧ t.pin.toNat = w.toNat % 256) ∨
    s.resetLine = true ∨ ResetChangeNext s true

/-- R206: entering TIMEOUT_ERR or CHECKSUM_ERR sets STATE and no other register, and the pad is already an input. -/
def Obligations.ErrorEntryChangesOnlyState : Prop :=
  ∀ s t : State, step s = .next t → t.stateReg ≠ s.stateReg →
    t.stateReg.toNat = 9 ∨ t.stateReg.toNat = 10 →
    t.c = s.c ∧ t.f = s.f ∧ t.byteIdx = s.byteIdx ∧ t.bitIdx = s.bitIdx ∧ t.hum = s.hum ∧ t.temp = s.temp ∧
      t.pin = s.pin ∧ t.rdata = s.rdata ∧ padOe s = false ∧ padOe t = false

/-- R72: when the block is not busy (and STATE is no reserved code) a tick changes no register. -/
def Obligations.TickWhileNotBusyChangesNoRegister : Prop :=
  ∀ s : State, s.stateReg.toNat = 0 ∨ (8 ≤ s.stateReg.toNat ∧ s.stateReg.toNat ≤ 10) → s.resetLine = false → TickNext s →
    step s = .next { s with
      pending := passTime (1000 - s.phase) s.pending, phase := 0, tickNo := s.tickNo + 1 }

/-- R82, R168: outside states 3..6 the line has no effect: two states that differ only in what the line shows step to
states that differ only in that, and no sample is read. -/
def Obligations.LineIgnoredOutsideWaitStates : Prop :=
  ∀ (s : State) (line' : List Level) (draws' : Nat), ¬(3 ≤ s.stateReg.toNat ∧ s.stateReg.toNat ≤ 6) →
    ∃ t, step s = .next t ∧ t.line = s.line ∧ t.draws = s.draws ∧
      step { s with line := line', draws := draws' } = .next { t with line := line', draws := draws' }

/-! ### A decode, whole -/

/-- R150, R151, R45: after START the line is driven low for exactly 3000 ticks and high for exactly 25, then released, and
no sample is read before the release. -/
def Obligations.WakeAndRequestDriveTimes : Prop :=
  ∀ (s : State) (n : Nat), Started s → n ≤ 3025 →
    ∃ t, runSteps n s = .next t ∧ t.tickNo = s.tickNo + n ∧ t.line = s.line ∧ t.draws = s.draws ∧
      padOe t = decide (n < 3025) ∧ padOut t = decide (3000 ≤ n ∧ n < 3025) ∧
      (n = 3025 → t.stateReg.toNat = 3 ∧ t.c.toNat = 0)

/-- R131, R134: the closed form of a wait phase. In any of the four wait states, with C reads made and `n` more samples at
the target level coming, after which the line shows the other level: if `C + n ≤ T + 1` the phase ends with Done(C + n) at
the sample after them; if not, it ends with Timeout at the read at which C is T + 1, and no later sample is read. -/
def Obligations.WaitPhaseEndsByRunLength : Prop :=
  ∀ (s : State) (j n : Nat) (other : Level) (rest : List Level),
    s.stateReg = phaseState j → s.resetLine = false → s.pending = [] →
    s.line = List.replicate n (phaseLevel j) ++ other :: rest → other ≠ phaseLevel j →
    s.c.toNat ≤ phaseBound j + 1 →
    (s.c.toNat + n ≤ phaseBound j + 1 →
      ∃ t, runSteps n s = .next t ∧ t.stateReg = s.stateReg ∧ t.f = s.f ∧ t.byteIdx = s.byteIdx ∧
        t.bitIdx = s.bitIdx ∧ t.hum = s.hum ∧ t.temp = s.temp ∧ t.pin = s.pin ∧ t.rdata = s.rdata ∧
        t.line = other :: rest ∧ t.tickNo = s.tickNo + n ∧
        (wait (phaseLevel j) (phaseBound j) other t).1 = .done (s.c.toNat + n)) ∧
    (phaseBound j + 2 ≤ s.c.toNat + n →
      ∃ t, runSteps (phaseBound j + 2 - s.c.toNat) s = .next t ∧ t.stateReg.toNat = 9 ∧
        t.c.toNat = phaseBound j + 1 ∧ t.f = s.f ∧ t.byteIdx = s.byteIdx ∧ t.bitIdx = s.bitIdx ∧
        t.hum = s.hum ∧ t.temp = s.temp ∧ t.pin = s.pin ∧ t.rdata = s.rdata ∧
        t.tickNo = s.tickNo + (phaseBound j + 2 - s.c.toNat) ∧
        t.line = s.line.drop (phaseBound j + 2 - s.c.toNat))

/-- R33, R156: forty calls of Pack from the cleared frame at (0, 7) put stream bit k in `F[k div 8][7 - (k mod 8)]` and
end at (5, 7); so stream bit 0 is F[0][7] and stream bit 39 is F[4][0]. -/
def Obligations.FortyPacksBuildTheFrame : Prop :=
  ∀ bits : List Bool, bits.length = 40 →
    let p := bits.foldl (fun p b => pack p.f p.byteIdx p.bitIdx b) ⟨Frame.zero, 0#3, 7#3⟩
    p.f = frameOfBits bits ∧ p.byteIdx.toNat = 5 ∧ p.bitIdx.toNat = 7 ∧
    (∀ k, k < 40 → streamBit p.f k = bits.getD k false) ∧
    p.f.b0.getLsbD 7 = bits.getD 0 false ∧ p.f.b4.getLsbD 0 = bits.getD 39 false

/-- R172, R173: a whole decode. From an accepted START, for every 82 runs each within its bound, whatever the samples after
them: bit k is Classify of the run of BIT_HIGH(k), the frame is those bits packed most significant first, and after
`3027 + e` ticks the decode has ended, in SUCCESS with HUM and TEMP from the frame if its checksum agrees, in CHECKSUM_ERR
with both unchanged if not. One tick before, it is still busy. -/
def Obligations.WholeDecodeFollowsItsRuns : Prop :=
  ∀ (s : State) (runs : List Nat) (rest : List Level),
    Started s → s.line = samplesFrom 0 runs ++ .low :: rest → runs.length = 82 → RunsInBounds runs →
    let f := frameOfBits (bitsOfRuns runs)
    (∃ u, runSteps (3026 + runs.sum) s = .next u ∧ u.stateReg.toNat = 7) ∧
    ∃ t, runSteps (3027 + runs.sum) s = .next t ∧ t.f = f ∧ t.pin = s.pin ∧ t.rdata = s.rdata ∧ t.line = rest ∧
      t.tickNo = s.tickNo + (3027 + runs.sum) ∧
      ((f.b0.toNat + f.b1.toNat + f.b2.toNat + f.b3.toNat) % 256 = f.b4.toNat →
        t.stateReg.toNat = 8 ∧ t.hum.toNat = f.b0.toNat * 256 + f.b1.toNat ∧
        t.temp.toInt =
          (if 128 ≤ f.b2.toNat then -(((f.b2.toNat % 128) * 256 + f.b3.toNat : Nat) : Int)
           else (((f.b2.toNat % 128) * 256 + f.b3.toNat : Nat) : Int))) ∧
      ((f.b0.toNat + f.b1.toNat + f.b2.toNat + f.b3.toNat) % 256 ≠ f.b4.toNat →
        t.stateReg.toNat = 10 ∧ t.hum = s.hum ∧ t.temp = s.temp)

/-- R172, R173, R159: if the runs before phase j are within their bounds and phase j's run is longer than its bound + 1,
the decode ends in TIMEOUT_ERR at tick `3026 + p_j + T_j + 1`, with HUM and TEMP unchanged and no later sample read. -/
def Obligations.FirstOverrunEndsInTimeout : Prop :=
  ∀ (s : State) (runs : List Nat) (r : Nat) (rest : List Level),
    Started s → runs.length < 82 → RunsInBounds runs → phaseBound runs.length + 2 ≤ r →
    s.line = samplesFrom 0 runs ++ List.replicate r (phaseLevel runs.length) ++ rest →
    (∃ u, runSteps (3026 + runs.sum + phaseBound runs.length) s = .next u ∧
      u.stateReg = phaseState runs.length) ∧
    ∃ t, runSteps (3026 + runs.sum + phaseBound runs.length + 1) s = .next t ∧ t.stateReg.toNat = 9 ∧
      t.hum = s.hum ∧ t.temp = s.temp ∧ t.pin = s.pin ∧
      t.line = List.replicate (r - (phaseBound runs.length + 2)) (phaseLevel runs.length) ++ rest

/-- R243: every decode ends. From any busy state that meets the invariant, with reset not asserted and nothing
pending, whatever the line shows, some number of ticks up to 8519 brings a terminal state. -/
def Obligations.EveryDecodeEndsWithin8519Ticks : Prop :=
  ∀ s : State, Inv s → 1 ≤ s.stateReg.toNat → s.stateReg.toNat ≤ 7 → s.resetLine = false → s.pending = [] →
    ∃ n t, n ≤ 8519 ∧ runSteps n s = .next t ∧ 8 ≤ t.stateReg.toNat ∧ t.stateReg.toNat ≤ 10

/-- R243: no decode ends early: whatever the line shows, it is busy for the first 3083 ticks after START, and it neither
succeeds nor fails its checksum before tick 3108. -/
def Obligations.NoDecodeEndsBeforeTick3084 : Prop :=
  ∀ (s : State) (n : Nat), Started s → ∃ t, runSteps n s = .next t ∧
    (n < 3084 → 1 ≤ t.stateReg.toNat ∧ t.stateReg.toNat ≤ 7) ∧
    (n < 3108 → t.stateReg.toNat ≠ 8 ∧ t.stateReg.toNat ≠ 10)

/-- R173: the source's five testable properties. -/
def Obligations.SourcePropertiesHold : Prop := SourceProperties

/-! ### The host's end of the bus -/

/-- R94, R95: the encoding of RD and WR lines, and the expansions of the pseudo-instructions. -/
def Obligations.HostLinesEncodeAndExpand : Prop :=
  HostLine.code (.wr (.reg .pin) 0x04#32) = some (.hbus 0x114#9 0x00000004#32) ∧
  HostLine.code (.rd (.reg .reading)) = some (.hbus 0x010#9 0#32) ∧
  HostLine.code (.rd (.raw 0x0D#8)) = some (.hbus 0x00D#9 0#32) ∧
  HostLine.code (.wr (.raw 0x01#8) 1#32) = some (.hbus 0x101#9 1#32) ∧
  Pseudo.expand .start = [.wr (.reg .ctrl) 0x1#32] ∧
  (∀ l, Pseudo.expand (.decode l) = Pseudo.expand .start ++ Pseudo.expand (.poll l)) ∧
  (∀ l, Pseudo.expand (.poll l) = [.label l, .rd (.reg .status), .bit 0, .bnz l]) ∧
  (∀ n, Pseudo.expand (.setPin n) = [.wr (.reg .pin) n])

/-- R95: `TICKS n` lets exactly n ticks elapse and ends at the last of them, whatever else is pending: it is some number of
steps of the machine, n of which are ticks, none of them an access of the host's program. With nothing pending it is n steps.
The layer of the host's lines is the model's (log 14). -/
def Obligations.TicksLineLetsThatManyTicksElapse : Prop :=
  ∀ (n gap : Nat) (s : State),
    (∃ k t, runSteps k s = .next t ∧ (HostLine.ticks n).effect gap s = .next t ∧ ticksIn k s = n ∧
      ∀ j, j < k → ticksIn j s < n) ∧
    (s.pending = [] → (HostLine.ticks n).effect gap s = runSteps n s)
end

