-- ==== Sys2Proof/Laws/Decode.lean ====
section
/-! SUPPORT. What the decoder gives: the twelve exact rows of R91, the two unmapped rows, and which engine rows read the
sample (R82, R92). -/

namespace Sys2Proof

/-- OP is WE : ADDR and nothing else (R80). -/
theorem makeOp_opWrite_opAddr (op : BitVec 9) : makeOp (opWrite op) (opAddr op) = op := by
  revert op; decide

theorem opWrite_makeOp (we : Bool) (addr : Addr) : opWrite (makeOp we addr) = we := by
  revert addr; cases we <;> decide

theorem opAddr_makeOp (we : Bool) (addr : Addr) : opAddr (makeOp we addr) = addr := by
  revert addr; cases we <;> decide

/-- The twelve OP values whose address is mapped (R61, R91). -/
theorem op_of_mapped (op : BitVec 9) : isMapped (opAddr op) = true →
    op = 0x000#9 ∨ op = 0x100#9 ∨ op = 0x004#9 ∨ op = 0x104#9 ∨ op = 0x008#9 ∨ op = 0x108#9 ∨ op = 0x00C#9 ∨
    op = 0x10C#9 ∨ op = 0x010#9 ∨ op = 0x110#9 ∨ op = 0x014#9 ∨ op = 0x114#9 := by
  revert op; decide

/-- An unmapped address decodes to its row by WE (R91). -/
theorem decodeHost_unmapped {op : BitVec 9} (h : isMapped (opAddr op) = false) (w : Word) :
    decodeHost op w = if opWrite op then .wrUnmapped (opAddr op) w else .rdUnmapped (opAddr op) := by
  have ne : ∀ k : BitVec 9, isMapped (opAddr k) = true → op ≠ k := by
    intro k hk e
    rw [e, hk] at h
    cases h
  simp only [decodeHost, ne 0x000#9 rfl, ne 0x100#9 rfl, ne 0x004#9 rfl, ne 0x104#9 rfl, ne 0x008#9 rfl, ne 0x108#9 rfl,
    ne 0x00C#9 rfl, ne 0x10C#9 rfl, ne 0x010#9 rfl, ne 0x110#9 rfl, ne 0x014#9 rfl, ne 0x114#9 rfl, if_false]

/-- Outside states 3..6 the sample means nothing to the decoder (R82). -/
theorem decodeEngine_sample {st : BitVec 4} (l m : Level) :
    ¬(3 ≤ st.toNat ∧ st.toNat ≤ 6) → decodeEngine st l = decodeEngine st m := by
  revert st; cases l <;> cases m <;> decide

end Sys2Proof
end

