-- ==== Sys2Proof/Laws/State.lean ====
section
/-! SUPPORT. One lemma per field per state update, so that later proofs do not unfold a record update. -/

namespace Sys2Proof.Machine

/-! ### goto -/

@[simp] theorem State.goto_stateReg (s : State) (code : BitVec 4) : (s.goto code).stateReg = code := rfl
@[simp] theorem State.goto_c (s : State) (code : BitVec 4) : (s.goto code).c = s.c := rfl
@[simp] theorem State.goto_f (s : State) (code : BitVec 4) : (s.goto code).f = s.f := rfl
@[simp] theorem State.goto_byteIdx (s : State) (code : BitVec 4) : (s.goto code).byteIdx = s.byteIdx := rfl
@[simp] theorem State.goto_bitIdx (s : State) (code : BitVec 4) : (s.goto code).bitIdx = s.bitIdx := rfl
@[simp] theorem State.goto_hum (s : State) (code : BitVec 4) : (s.goto code).hum = s.hum := rfl
@[simp] theorem State.goto_temp (s : State) (code : BitVec 4) : (s.goto code).temp = s.temp := rfl
@[simp] theorem State.goto_pin (s : State) (code : BitVec 4) : (s.goto code).pin = s.pin := rfl
@[simp] theorem State.goto_phase (s : State) (code : BitVec 4) : (s.goto code).phase = s.phase := rfl
@[simp] theorem State.goto_tickNo (s : State) (code : BitVec 4) : (s.goto code).tickNo = s.tickNo := rfl
@[simp] theorem State.goto_resetLine (s : State) (code : BitVec 4) : (s.goto code).resetLine = s.resetLine := rfl
@[simp] theorem State.goto_pending (s : State) (code : BitVec 4) : (s.goto code).pending = s.pending := rfl
@[simp] theorem State.goto_line (s : State) (code : BitVec 4) : (s.goto code).line = s.line := rfl
@[simp] theorem State.goto_draws (s : State) (code : BitVec 4) : (s.goto code).draws = s.draws := rfl
@[simp] theorem State.goto_rdata (s : State) (code : BitVec 4) : (s.goto code).rdata = s.rdata := rfl

/-! ### setC -/

@[simp] theorem State.setC_stateReg (s : State) (v : BitVec 12) : (s.setC v).stateReg = s.stateReg := rfl
@[simp] theorem State.setC_c (s : State) (v : BitVec 12) : (s.setC v).c = v := rfl
@[simp] theorem State.setC_f (s : State) (v : BitVec 12) : (s.setC v).f = s.f := rfl
@[simp] theorem State.setC_byteIdx (s : State) (v : BitVec 12) : (s.setC v).byteIdx = s.byteIdx := rfl
@[simp] theorem State.setC_bitIdx (s : State) (v : BitVec 12) : (s.setC v).bitIdx = s.bitIdx := rfl
@[simp] theorem State.setC_hum (s : State) (v : BitVec 12) : (s.setC v).hum = s.hum := rfl
@[simp] theorem State.setC_temp (s : State) (v : BitVec 12) : (s.setC v).temp = s.temp := rfl
@[simp] theorem State.setC_pin (s : State) (v : BitVec 12) : (s.setC v).pin = s.pin := rfl
@[simp] theorem State.setC_phase (s : State) (v : BitVec 12) : (s.setC v).phase = s.phase := rfl
@[simp] theorem State.setC_tickNo (s : State) (v : BitVec 12) : (s.setC v).tickNo = s.tickNo := rfl
@[simp] theorem State.setC_resetLine (s : State) (v : BitVec 12) : (s.setC v).resetLine = s.resetLine := rfl
@[simp] theorem State.setC_pending (s : State) (v : BitVec 12) : (s.setC v).pending = s.pending := rfl
@[simp] theorem State.setC_line (s : State) (v : BitVec 12) : (s.setC v).line = s.line := rfl
@[simp] theorem State.setC_draws (s : State) (v : BitVec 12) : (s.setC v).draws = s.draws := rfl
@[simp] theorem State.setC_rdata (s : State) (v : BitVec 12) : (s.setC v).rdata = s.rdata := rfl

/-! ### respond -/

@[simp] theorem State.respond_stateReg (s : State) (v : Word) : (s.respond v).stateReg = s.stateReg := rfl
@[simp] theorem State.respond_c (s : State) (v : Word) : (s.respond v).c = s.c := rfl
@[simp] theorem State.respond_f (s : State) (v : Word) : (s.respond v).f = s.f := rfl
@[simp] theorem State.respond_byteIdx (s : State) (v : Word) : (s.respond v).byteIdx = s.byteIdx := rfl
@[simp] theorem State.respond_bitIdx (s : State) (v : Word) : (s.respond v).bitIdx = s.bitIdx := rfl
@[simp] theorem State.respond_hum (s : State) (v : Word) : (s.respond v).hum = s.hum := rfl
@[simp] theorem State.respond_temp (s : State) (v : Word) : (s.respond v).temp = s.temp := rfl
@[simp] theorem State.respond_pin (s : State) (v : Word) : (s.respond v).pin = s.pin := rfl
@[simp] theorem State.respond_phase (s : State) (v : Word) : (s.respond v).phase = s.phase := rfl
@[simp] theorem State.respond_tickNo (s : State) (v : Word) : (s.respond v).tickNo = s.tickNo := rfl
@[simp] theorem State.respond_resetLine (s : State) (v : Word) : (s.respond v).resetLine = s.resetLine := rfl
@[simp] theorem State.respond_pending (s : State) (v : Word) : (s.respond v).pending = s.pending := rfl
@[simp] theorem State.respond_line (s : State) (v : Word) : (s.respond v).line = s.line := rfl
@[simp] theorem State.respond_draws (s : State) (v : Word) : (s.respond v).draws = s.draws := rfl
@[simp] theorem State.respond_rdata (s : State) (v : Word) : (s.respond v).rdata = v := rfl

/-! ### finish -/

@[simp] theorem State.finish_stateReg (s : State) (o : Terminal) : (s.finish o).stateReg = o.code := rfl
@[simp] theorem State.finish_c (s : State) (o : Terminal) : (s.finish o).c = s.c := rfl
@[simp] theorem State.finish_f (s : State) (o : Terminal) : (s.finish o).f = s.f := rfl
@[simp] theorem State.finish_byteIdx (s : State) (o : Terminal) : (s.finish o).byteIdx = s.byteIdx := rfl
@[simp] theorem State.finish_bitIdx (s : State) (o : Terminal) : (s.finish o).bitIdx = s.bitIdx := rfl
@[simp] theorem State.finish_hum (s : State) (o : Terminal) : (s.finish o).hum = s.hum := rfl
@[simp] theorem State.finish_temp (s : State) (o : Terminal) : (s.finish o).temp = s.temp := rfl
@[simp] theorem State.finish_pin (s : State) (o : Terminal) : (s.finish o).pin = s.pin := rfl
@[simp] theorem State.finish_phase (s : State) (o : Terminal) : (s.finish o).phase = s.phase := rfl
@[simp] theorem State.finish_tickNo (s : State) (o : Terminal) : (s.finish o).tickNo = s.tickNo := rfl
@[simp] theorem State.finish_resetLine (s : State) (o : Terminal) : (s.finish o).resetLine = s.resetLine := rfl
@[simp] theorem State.finish_pending (s : State) (o : Terminal) : (s.finish o).pending = s.pending := rfl
@[simp] theorem State.finish_line (s : State) (o : Terminal) : (s.finish o).line = s.line := rfl
@[simp] theorem State.finish_draws (s : State) (o : Terminal) : (s.finish o).draws = s.draws := rfl
@[simp] theorem State.finish_rdata (s : State) (o : Terminal) : (s.finish o).rdata = s.rdata := rfl

/-! ### startDecode -/

@[simp] theorem State.startDecode_stateReg (s : State) : (s.startDecode).stateReg = stWakeLow := rfl
@[simp] theorem State.startDecode_c (s : State) : (s.startDecode).c = 0#12 := rfl
@[simp] theorem State.startDecode_f (s : State) : (s.startDecode).f = Frame.zero := rfl
@[simp] theorem State.startDecode_byteIdx (s : State) : (s.startDecode).byteIdx = 0#3 := rfl
@[simp] theorem State.startDecode_bitIdx (s : State) : (s.startDecode).bitIdx = 7#3 := rfl
@[simp] theorem State.startDecode_hum (s : State) : (s.startDecode).hum = s.hum := rfl
@[simp] theorem State.startDecode_temp (s : State) : (s.startDecode).temp = s.temp := rfl
@[simp] theorem State.startDecode_pin (s : State) : (s.startDecode).pin = s.pin := rfl
@[simp] theorem State.startDecode_phase (s : State) : (s.startDecode).phase = 0 := rfl
@[simp] theorem State.startDecode_tickNo (s : State) : (s.startDecode).tickNo = 0 := rfl
@[simp] theorem State.startDecode_resetLine (s : State) : (s.startDecode).resetLine = s.resetLine := rfl
@[simp] theorem State.startDecode_pending (s : State) : (s.startDecode).pending = s.pending := rfl
@[simp] theorem State.startDecode_line (s : State) : (s.startDecode).line = s.line := rfl
@[simp] theorem State.startDecode_draws (s : State) : (s.startDecode).draws = s.draws := rfl
@[simp] theorem State.startDecode_rdata (s : State) : (s.startDecode).rdata = s.rdata := rfl

/-! ### resetBlock -/

@[simp] theorem State.resetBlock_stateReg (s : State) : (s.resetBlock).stateReg = stIdle := rfl
@[simp] theorem State.resetBlock_c (s : State) : (s.resetBlock).c = 0#12 := rfl
@[simp] theorem State.resetBlock_f (s : State) : (s.resetBlock).f = Frame.zero := rfl
@[simp] theorem State.resetBlock_byteIdx (s : State) : (s.resetBlock).byteIdx = 0#3 := rfl
@[simp] theorem State.resetBlock_bitIdx (s : State) : (s.resetBlock).bitIdx = 7#3 := rfl
@[simp] theorem State.resetBlock_hum (s : State) : (s.resetBlock).hum = 0#16 := rfl
@[simp] theorem State.resetBlock_temp (s : State) : (s.resetBlock).temp = 0#16 := rfl
@[simp] theorem State.resetBlock_pin (s : State) : (s.resetBlock).pin = Config.defaultPin := rfl
@[simp] theorem State.resetBlock_phase (s : State) : (s.resetBlock).phase = 0 := rfl
@[simp] theorem State.resetBlock_tickNo (s : State) : (s.resetBlock).tickNo = 0 := rfl
@[simp] theorem State.resetBlock_resetLine (s : State) : (s.resetBlock).resetLine = s.resetLine := rfl
@[simp] theorem State.resetBlock_pending (s : State) : (s.resetBlock).pending = s.pending := rfl
@[simp] theorem State.resetBlock_line (s : State) : (s.resetBlock).line = s.line := rfl
@[simp] theorem State.resetBlock_draws (s : State) : (s.resetBlock).draws = s.draws := rfl
@[simp] theorem State.resetBlock_rdata (s : State) : (s.resetBlock).rdata = s.rdata := rfl

/-! ### beginTick -/

@[simp] theorem State.beginTick_stateReg (s : State) : (s.beginTick).stateReg = s.stateReg := rfl
@[simp] theorem State.beginTick_c (s : State) : (s.beginTick).c = s.c := rfl
@[simp] theorem State.beginTick_f (s : State) : (s.beginTick).f = s.f := rfl
@[simp] theorem State.beginTick_byteIdx (s : State) : (s.beginTick).byteIdx = s.byteIdx := rfl
@[simp] theorem State.beginTick_bitIdx (s : State) : (s.beginTick).bitIdx = s.bitIdx := rfl
@[simp] theorem State.beginTick_hum (s : State) : (s.beginTick).hum = s.hum := rfl
@[simp] theorem State.beginTick_temp (s : State) : (s.beginTick).temp = s.temp := rfl
@[simp] theorem State.beginTick_pin (s : State) : (s.beginTick).pin = s.pin := rfl
@[simp] theorem State.beginTick_phase (s : State) : (s.beginTick).phase = 0 := rfl
@[simp] theorem State.beginTick_tickNo (s : State) : (s.beginTick).tickNo = s.tickNo + 1 := rfl
@[simp] theorem State.beginTick_resetLine (s : State) : (s.beginTick).resetLine = s.resetLine := rfl
@[simp] theorem State.beginTick_pending (s : State) : (s.beginTick).pending = passTime (timeToTick s) s.pending := rfl
@[simp] theorem State.beginTick_line (s : State) : (s.beginTick).line = s.line := rfl
@[simp] theorem State.beginTick_draws (s : State) : (s.beginTick).draws = s.draws := rfl
@[simp] theorem State.beginTick_rdata (s : State) : (s.beginTick).rdata = s.rdata := rfl

/-! ### The STATE codes of the outcomes -/

@[simp] theorem Terminal.code_success : Terminal.success.code = stSuccess := rfl
@[simp] theorem Terminal.code_timeoutErr : Terminal.timeoutErr.code = stTimeoutErr := rfl
@[simp] theorem Terminal.code_checksumErr : Terminal.checksumErr.code = stChecksumErr := rfl

end Sys2Proof.Machine
end

