-- ==== Sys2Proof/Laws/Registers.lean ====
section
/-! SUPPORT. What the register space answers (R61) and what a write to it changes (R69). -/

namespace Sys2Proof.Machine

theorem memRead_ctrl (s : State) : memRead s 0x00#8 = 0#32 := rfl
theorem memRead_status (s : State) : memRead s 0x04#8 = statusWord s := rfl
theorem memRead_humidity (s : State) : memRead s 0x08#8 = humidityWord s := rfl
theorem memRead_temperature (s : State) : memRead s 0x0C#8 = temperatureWord s := rfl
theorem memRead_reading (s : State) : memRead s 0x10#8 = readingWord s := rfl
theorem memRead_pin (s : State) : memRead s 0x14#8 = pinWord s := rfl

/-- STATUS depends on STATE alone (R40). -/
theorem statusWord_congr {s t : State} (h : s.stateReg = t.stateReg) : statusWord s = statusWord t := by
  simp only [statusWord, resultCode, busy, h]

/-- Everything a bus write can do: start a decode, set PIN, or nothing (R69). -/
theorem memWrite_cases (s : State) (addr : Addr) (v : Word) :
    (memWrite s addr v = s.startDecode ∧ addr = 0x00#8 ∧ startBit v = true ∧ busy s = false) ∨
    (memWrite s addr v = { s with pin := pinField v } ∧ addr = 0x14#8 ∧ busy s = false) ∨
    memWrite s addr v = s := by
  unfold memWrite State.writeCtrl State.writePin
  split
  · split
    · rename_i h
      simp only [Bool.and_eq_true, Bool.not_eq_true'] at h
      exact .inl ⟨rfl, ‹_›, h.1, h.2⟩
    · exact .inr (.inr rfl)
  · split
    · split
      · exact .inr (.inr rfl)
      · exact .inr (.inl ⟨rfl, ‹_›, by simpa using ‹¬busy s = true›⟩)
    · exact .inr (.inr rfl)

end Sys2Proof.Machine
end

