-- ==== Sys2Proof/Laws/Waiter.lean ====
section
/-! SUPPORT. What one wait step and the phases built on it can do (R131, R132, R150–R155). -/

namespace Sys2Proof.Machine

/-- A level change is Done with the count so far, whatever the count is (R131). -/
theorem wait_done {v sample : Level} (bound : Nat) {s : State} (h : sample ≠ v) :
    wait v bound sample s = (.done s.c.toNat, s) := by
  simp [wait, h]

/-- Still at the level with the count above the bound is Timeout (R131). -/
theorem wait_timeout (v : Level) {bound : Nat} {s : State} (h : bound < s.c.toNat) :
    wait v bound v s = (.timeout, s) := by
  simp [wait, h]

/-- Still at the level within the bound counts and goes on (R131). -/
theorem wait_again (v : Level) {bound : Nat} {s : State} (h : s.c.toNat ≤ bound) :
    wait v bound v s = (.again, s.setC (s.c + 1#12)) := by
  simp [wait, Nat.not_lt.mpr h]

/-- The three cases of a wait phase whose duration is discarded. -/
theorem waitPhase_cases (v : Level) (bound : Nat) (after : BitVec 4) (sample : Level) (s : State) :
    (sample ≠ v ∧ waitPhase v bound after sample s = (s.goto after).setC 1#12) ∨
    (sample = v ∧ bound < s.c.toNat ∧ waitPhase v bound after sample s = s.finish .timeoutErr) ∨
    (sample = v ∧ s.c.toNat ≤ bound ∧ waitPhase v bound after sample s = s.setC (s.c + 1#12)) := by
  by_cases hv : sample = v
  · subst hv
    by_cases hb : bound < s.c.toNat
    · exact .inr (.inl ⟨rfl, hb, by simp [waitPhase, wait_timeout _ hb]⟩)
    · have hb := Nat.not_lt.mp hb
      exact .inr (.inr ⟨rfl, hb, by simp [waitPhase, wait_again _ hb]⟩)
  · exact .inl ⟨hv, by simp [waitPhase, wait_done _ hv]⟩

/-- The two cases of a drive phase. -/
theorem drivePhase_cases (ticks : Nat) (after : BitVec 4) (s : State) :
    (s.c.toNat + 1 = ticks ∧ drivePhase ticks after s = (s.goto after).setC 0#12) ∨
    (s.c.toNat + 1 ≠ ticks ∧ drivePhase ticks after s = s.setC (s.c + 1#12)) := by
  by_cases h : s.c.toNat + 1 = ticks
  · exact .inl ⟨h, by simp [drivePhase, h]⟩
  · exact .inr ⟨h, by simp only [drivePhase, if_neg h]; rw [BitVec.ofNat_add, BitVec.ofNat_toNat, BitVec.setWidth_eq]⟩

/-- What the end of a high phase leaves alone. -/
theorem takeBit_frame (d : Nat) (s : State) :
    (takeBit d s).hum = s.hum ∧ (takeBit d s).temp = s.temp ∧ (takeBit d s).pin = s.pin ∧
    (takeBit d s).phase = s.phase ∧ (takeBit d s).tickNo = s.tickNo ∧ (takeBit d s).resetLine = s.resetLine ∧
    (takeBit d s).pending = s.pending ∧ (takeBit d s).line = s.line ∧ (takeBit d s).draws = s.draws ∧
    (takeBit d s).rdata = s.rdata := by
  unfold takeBit
  dsimp only
  split <;> simp

end Sys2Proof.Machine
end

