-- ==== Sys2Proof/Laws/Events.lean ====
section
/-! SUPPORT. What comes next and what running it does (R14, R70, R130, R205, R230). -/

namespace Sys2Proof.Machine

/-- The level a tick of a wait state reads. -/
theorem drawSample_cons {s : State} {l : Level} {ls : List Level} (hw : waiting s = true) (hl : s.line = l :: ls) :
    drawSample s = (l, { s with line := ls }) := by
  simp [drawSample, hw, hl]

/-- Once the listed samples are used up a tick of a wait state reads a free one (R130). -/
theorem drawSample_nil {s : State} (hw : waiting s = true) (hl : s.line = []) :
    drawSample s = (Config.freeSample s.draws, { s with draws := s.draws + 1 }) := by
  simp [drawSample, hw, hl]

/-- Outside the wait states nothing is read (R82). -/
theorem drawSample_idle {s : State} (hw : waiting s = false) : drawSample s = (.low, s) := by
  simp [drawSample, hw]

/-- Reading the line changes only what the line shows next. -/
theorem drawSample_snd (s : State) :
    (drawSample s).2 = { s with line := (drawSample s).2.line, draws := (drawSample s).2.draws } := by
  unfold drawSample
  split
  · split <;> rfl
  · rfl

theorem step_tick {s : State} (h : nextEvent s = tickEvent s) : step s = runEvent (tickEvent s) := by
  rw [step, h]

/-- With nothing pending the next event is the tick. -/
theorem nextEvent_nil {s : State} (h : s.pending = []) : nextEvent s = tickEvent s := by
  simp [nextEvent, h]

/-- A host access due before the tick comes first. -/
theorem nextEvent_bus {s : State} {d : Nat} {op : BitVec 9} {w : Word} {ps : List Pending}
    (h : s.pending = { delay := d, action := .bus op w } :: ps) (hd : d < timeToTick s) :
    nextEvent s = .run (.hbus op w) { s with pending := ps, phase := s.phase + d } := by
  simp [nextEvent, h, Pending.beforeTick, hd]

/-- A host access that is due no earlier than the tick waits for it. -/
theorem nextEvent_bus_late {s : State} {d : Nat} {op : BitVec 9} {w : Word} {ps : List Pending}
    (h : s.pending = { delay := d, action := .bus op w } :: ps) (hd : timeToTick s ≤ d) :
    nextEvent s = tickEvent s := by
  simp [nextEvent, h, Pending.beforeTick, Nat.not_lt.mpr hd]

/-- A reset change due by the tick comes first. -/
theorem nextEvent_reset {s : State} {d : Nat} {l : Bool} {ps : List Pending}
    (h : s.pending = { delay := d, action := .resetInput l } :: ps) (hd : d ≤ timeToTick s) :
    nextEvent s = .resetInput l { s with pending := ps, phase := s.phase + d } := by
  simp [nextEvent, h, Pending.beforeTick, hd]

/-- A reset change due after the tick waits for it. -/
theorem nextEvent_reset_late {s : State} {d : Nat} {l : Bool} {ps : List Pending}
    (h : s.pending = { delay := d, action := .resetInput l } :: ps) (hd : timeToTick s < d) :
    nextEvent s = tickEvent s := by
  simp [nextEvent, h, Pending.beforeTick, Nat.not_le.mpr hd]

/-- The next event is a tick, a host access or a change of the reset input: the one inversion of `nextEvent`. -/
theorem nextEvent_cases (s : State) :
    nextEvent s = tickEvent s ∨
    (∃ d op w ps, s.pending = { delay := d, action := .bus op w } :: ps ∧ d < timeToTick s ∧
      nextEvent s = .run (.hbus op w) { s with pending := ps, phase := s.phase + d }) ∨
    (∃ d l ps, s.pending = { delay := d, action := .resetInput l } :: ps ∧ d ≤ timeToTick s ∧
      nextEvent s = .resetInput l { s with pending := ps, phase := s.phase + d }) := by
  match hp : s.pending with
  | [] => exact .inl (nextEvent_nil hp)
  | ⟨d, .bus op w⟩ :: ps =>
    by_cases hd : d < timeToTick s
    · exact .inr (.inl ⟨d, op, w, ps, rfl, hd, nextEvent_bus hp hd⟩)
    · exact .inl (nextEvent_bus_late hp (Nat.not_lt.mp hd))
  | ⟨d, .resetInput l⟩ :: ps =>
    by_cases hd : d ≤ timeToTick s
    · exact .inr (.inr ⟨d, l, ps, rfl, hd, nextEvent_reset hp hd⟩)
    · exact .inl (nextEvent_reset_late hp (Nat.not_le.mp hd))

/-- While reset is not asserted nothing is discarded. -/
theorem holdReset_next {t : State} (h : t.resetLine = false) : holdReset (.next t) = .next t := by
  simp [holdReset, h]

/-- While reset is asserted the block stays at its reset values (R230). -/
theorem holdReset_asserted {t : State} (h : t.resetLine = true) : holdReset (.next t) = .next t.resetBlock := by
  simp [holdReset, h]

/-- Runs compose. -/
theorem runSteps_add (m n : Nat) (s : State) :
    runSteps (m + n) s =
      match runSteps m s with
      | .next t => runSteps n t
      | .fault r => .fault r
      | .refused r => .refused r := by
  induction m generalizing s with
  | zero => simp [runSteps]
  | succ m ih =>
    rw [Nat.add_right_comm]
    simp only [runSteps]
    cases step s with
    | next t => exact ih t
    | fault r => rfl
    | refused r => rfl

end Sys2Proof.Machine
end

