-- ==== Sys2Proof/Laws/Exec.lean ====
section
/-! SUPPORT. What no instruction touches: the reset input, what is pending, and what the line shows next. -/

namespace Sys2Proof.Machine

/-- The environment's fields are the same in two states. -/
structure SameEnv (s t : State) : Prop where
  resetLine : t.resetLine = s.resetLine
  pending : t.pending = s.pending
  line : t.line = s.line
  draws : t.draws = s.draws

theorem SameEnv.rfl {s : State} : SameEnv s s := ⟨by simp, by simp, by simp, by simp⟩

theorem writeCtrl_env (w : Word) (s : State) : SameEnv s (s.writeCtrl w) := by
  unfold State.writeCtrl
  split
  · constructor <;> simp
  · exact SameEnv.rfl

theorem writePin_env (w : Word) (s : State) : SameEnv s (s.writePin w) := by
  unfold State.writePin
  split
  · exact SameEnv.rfl
  · constructor <;> rfl

theorem drivePhase_env (ticks : Nat) (after : BitVec 4) (s : State) : SameEnv s (drivePhase ticks after s) := by
  obtain ⟨-, h⟩ | ⟨-, h⟩ := drivePhase_cases ticks after s <;> rw [h] <;> constructor <;> simp

theorem waitPhase_env (v : Level) (bound : Nat) (after : BitVec 4) (sample : Level) (s : State) :
    SameEnv s (waitPhase v bound after sample s) := by
  obtain ⟨-, h⟩ | ⟨-, -, h⟩ | ⟨-, -, h⟩ := waitPhase_cases v bound after sample s <;> rw [h] <;> constructor <;> simp

theorem takeBit_env (d : Nat) (s : State) : SameEnv s (takeBit d s) := by
  have h := takeBit_frame d s
  exact ⟨h.2.2.2.2.2.1, h.2.2.2.2.2.2.1, h.2.2.2.2.2.2.2.1, h.2.2.2.2.2.2.2.2.1⟩

/-- The three cases of a tick of BIT_HIGH (R155). -/
theorem execEngBitHigh_cases (sample : Level) (s : State) :
    (sample = .low ∧ execEngBitHigh sample s = .next (takeBit s.c.toNat s)) ∨
    (sample = .high ∧ Config.tBitHigh < s.c.toNat ∧ execEngBitHigh sample s = .next (s.finish .timeoutErr)) ∨
    (sample = .high ∧ s.c.toNat ≤ Config.tBitHigh ∧ execEngBitHigh sample s = .next (s.setC (s.c + 1#12))) := by
  cases sample with
  | low => exact .inl ⟨rfl, by simp [execEngBitHigh, wait_done]⟩
  | high =>
    by_cases h : Config.tBitHigh < s.c.toNat
    · exact .inr (.inl ⟨rfl, h, by simp [execEngBitHigh, wait_timeout _ h]⟩)
    · have h := Nat.not_lt.mp h
      exact .inr (.inr ⟨rfl, h, by simp [execEngBitHigh, wait_again _ h]⟩)

theorem execEngBitHigh_env {sample : Level} {s t : State} (h : execEngBitHigh sample s = .next t) : SameEnv s t := by
  obtain ⟨-, e⟩ | ⟨-, -, e⟩ | ⟨-, -, e⟩ := execEngBitHigh_cases sample s <;> rw [e] at h <;> cases h
  · exact takeBit_env _ s
  · constructor <;> simp
  · constructor <;> simp

theorem execEngValidate_env {s t : State} (h : execEngValidate s = .next t) : SameEnv s t := by
  unfold execEngValidate at h
  split at h <;> cases h <;> constructor <;> simp

/-- No instruction touches the environment's fields. -/
theorem exec_env {i : Instr} {s t : State} (h : exec i s = .next t) : SameEnv s t := by
  cases i with
  | rdCtrl => cases h; constructor <;> simp
  | wrCtrl w => cases h; exact writeCtrl_env w s
  | rdStatus => cases h; constructor <;> simp
  | wrStatus w => cases h; exact SameEnv.rfl
  | rdHumidity => cases h; constructor <;> simp
  | wrHumidity w => cases h; exact SameEnv.rfl
  | rdTemperature => cases h; constructor <;> simp
  | wrTemperature w => cases h; exact SameEnv.rfl
  | rdReading => cases h; constructor <;> simp
  | wrReading w => cases h; exact SameEnv.rfl
  | rdPin => cases h; constructor <;> simp
  | wrPin w => cases h; exact writePin_env w s
  | rdUnmapped a => cases h; constructor <;> simp
  | wrUnmapped a w => cases h; exact SameEnv.rfl
  | engIdle => cases h; exact SameEnv.rfl
  | engWakeLow => cases h; exact drivePhase_env _ _ s
  | engReqHigh => cases h; exact drivePhase_env _ _ s
  | engAckLow l => cases h; exact waitPhase_env _ _ _ _ s
  | engAckHigh l => cases h; exact waitPhase_env _ _ _ _ s
  | engBitLow l => cases h; exact waitPhase_env _ _ _ _ s
  | engBitHigh l => exact execEngBitHigh_env h
  | engValidate => exact execEngValidate_env h
  | engSuccess => cases h; exact SameEnv.rfl
  | engTimeoutErr => cases h; exact SameEnv.rfl
  | engChecksumErr => cases h; exact SameEnv.rfl
  | engReserved c => cases h; constructor <;> simp

end Sys2Proof.Machine
end

