-- ==== Sys2Proof/Laws/PerInstr.lean ====
section
/-! SUPPORT. The byte image of every instruction: what follows it is left over, and the code that is read back is the one
that was written. -/

namespace Sys2Proof

/-- Four bytes of a word, put together again, are the word. -/
theorem wordBytes_append (w : Word) :
    (w.extractLsb' 24 8 ++ w.extractLsb' 16 8 ++ w.extractLsb' 8 8 ++ w.extractLsb' 0 8 : Word) = w := by
  apply BitVec.eq_of_getLsbD_eq
  intro i hi
  simp only [BitVec.getLsbD_append, BitVec.getLsbD_extractLsb', Nat.zero_add]
  split
  · simp [*]
  · split
    · rw [show 8 + (i - 8) = i by omega]; simp [*]
    · split
      · rw [show 16 + (i - 8 - 8) = i by omega]; simp [*]
      · rw [show 24 + (i - 8 - 8 - 8) = i by omega, show decide (i - 8 - 8 - 8 < 8) = true by simp; omega]; simp

/-- The image of a write is read back whole. -/
theorem codeOfBytes_write {op : BitVec 9} (h : opWrite op = true) (w : Word) (rest : List Byte) :
    codeOfBytes .hbus (bytesOfCode (.hbus op w) ++ rest) = .ok (.hbus op w, rest) := by
  have h1 : makeOp true (opAddr op) = op := by rw [← h]; exact makeOp_opWrite_opAddr op
  simp [codeOfBytes, bytesOfCode, h, wordBytes, h1, wordBytes_append]

/-- The image of a read is its selector. -/
theorem codeOfBytes_read {op : BitVec 9} (h : opWrite op = false) (rest : List Byte) :
    codeOfBytes .hbus (bytesOfCode (.hbus op 0#32) ++ rest) = .ok (.hbus op 0#32, rest) := by
  have h1 : makeOp false (opAddr op) = op := by rw [← h]; exact makeOp_opWrite_opAddr op
  simp [codeOfBytes, bytesOfCode, h, h1]

/-- The image of an engine code is read back whole. -/
theorem codeOfBytes_fsm (state : BitVec 4) (sample : Level) (rest : List Byte) :
    codeOfBytes .fsm (bytesOfCode (.fsm state sample) ++ rest) = .ok (.fsm state sample, rest) := by
  have h1 : (state.setWidth 8).extractLsb' 4 4 = 0#4 := by revert state; decide
  have h2 : (state.setWidth 8).extractLsb' 0 4 = state := by revert state; decide
  cases sample <;> simp [codeOfBytes, bytesOfCode, sampleByte, h1, h2]

namespace Laws.ByteImage

/-- Reading the bytes of `i` gives its code and leaves what follows. -/
def Statement (i : Instr) : Prop :=
  ∀ rest, codeOfBytes i.format (encodeBytes i ++ rest) = .ok (encode i, rest)

theorem rdCtrl : Statement (.rdCtrl) := fun rest => codeOfBytes_read (by decide) rest
theorem wrCtrl (wdata : Word) : Statement (.wrCtrl wdata) := fun rest => codeOfBytes_write (by decide) wdata rest
theorem rdStatus : Statement (.rdStatus) := fun rest => codeOfBytes_read (by decide) rest
theorem wrStatus (wdata : Word) : Statement (.wrStatus wdata) := fun rest => codeOfBytes_write (by decide) wdata rest
theorem rdHumidity : Statement (.rdHumidity) := fun rest => codeOfBytes_read (by decide) rest
theorem wrHumidity (wdata : Word) : Statement (.wrHumidity wdata) := fun rest => codeOfBytes_write (by decide) wdata rest
theorem rdTemperature : Statement (.rdTemperature) := fun rest => codeOfBytes_read (by decide) rest
theorem wrTemperature (wdata : Word) : Statement (.wrTemperature wdata) := fun rest => codeOfBytes_write (by decide) wdata rest
theorem rdReading : Statement (.rdReading) := fun rest => codeOfBytes_read (by decide) rest
theorem wrReading (wdata : Word) : Statement (.wrReading wdata) := fun rest => codeOfBytes_write (by decide) wdata rest
theorem rdPin : Statement (.rdPin) := fun rest => codeOfBytes_read (by decide) rest
theorem wrPin (wdata : Word) : Statement (.wrPin wdata) := fun rest => codeOfBytes_write (by decide) wdata rest
theorem rdUnmapped (addr : Addr) : Statement (.rdUnmapped addr) := fun rest => codeOfBytes_read (opWrite_makeOp false addr) rest
theorem wrUnmapped (addr : Addr) (wdata : Word) : Statement (.wrUnmapped addr wdata) := fun rest => codeOfBytes_write (opWrite_makeOp true addr) wdata rest
theorem engIdle : Statement (.engIdle) := fun rest => codeOfBytes_fsm _ _ rest
theorem engWakeLow : Statement (.engWakeLow) := fun rest => codeOfBytes_fsm _ _ rest
theorem engReqHigh : Statement (.engReqHigh) := fun rest => codeOfBytes_fsm _ _ rest
theorem engAckLow (sample : Level) : Statement (.engAckLow sample) := fun rest => codeOfBytes_fsm _ _ rest
theorem engAckHigh (sample : Level) : Statement (.engAckHigh sample) := fun rest => codeOfBytes_fsm _ _ rest
theorem engBitLow (sample : Level) : Statement (.engBitLow sample) := fun rest => codeOfBytes_fsm _ _ rest
theorem engBitHigh (sample : Level) : Statement (.engBitHigh sample) := fun rest => codeOfBytes_fsm _ _ rest
theorem engValidate : Statement (.engValidate) := fun rest => codeOfBytes_fsm _ _ rest
theorem engSuccess : Statement (.engSuccess) := fun rest => codeOfBytes_fsm _ _ rest
theorem engTimeoutErr : Statement (.engTimeoutErr) := fun rest => codeOfBytes_fsm _ _ rest
theorem engChecksumErr : Statement (.engChecksumErr) := fun rest => codeOfBytes_fsm _ _ rest
theorem engReserved (code : BitVec 4) : Statement (.engReserved code) := fun rest => codeOfBytes_fsm _ _ rest

end Laws.ByteImage

end Sys2Proof
end

