-- ==== Sys2Proof/Laws/Step.lean ====
section
/-! SUPPORT. What one step can do, said once: the inversion of `step` and of an engine step, from which invariants and
whole-machine rules follow. -/

namespace Sys2Proof.Machine

/-- The state an engine step runs in: the time base advanced, and whatever was read off the line. -/
def TickState (s u : State) : Prop :=
  u = { s with
    line := u.line
    draws := u.draws
    pending := passTime (timeToTick s) s.pending
    phase := 0
    tickNo := s.tickNo + 1 }

/-- An instruction always answers a next state. -/
theorem exec_next (i : Instr) (s : State) : ∃ t, exec i s = .next t := by
  cases i with
  | engBitHigh l => obtain ⟨-, h⟩ | ⟨-, -, h⟩ | ⟨-, -, h⟩ := execEngBitHigh_cases l s <;> exact ⟨_, h⟩
  | engValidate =>
    simp only [exec, execEngValidate]
    split <;> exact ⟨_, rfl⟩
  | _ => exact ⟨_, rfl⟩

/-- While reset is not asserted an event of running a code is the meaning of the decoded instruction. -/
theorem runEvent_run {code : Code} {s : State} (h : s.resetLine = false) :
    runEvent (.run code s) = exec (decode code) s := by
  obtain ⟨t, ht⟩ := exec_next (decode code) s
  simp only [runEvent, ht]
  exact holdReset_next (by rw [(exec_env ht).resetLine, h])

/-- While reset is asserted the block comes out of every event at its reset values (R230). -/
theorem runEvent_run_asserted {code : Code} {s : State} (h : s.resetLine = true) :
    ∃ u : State, runEvent (.run code s) = .next u.resetBlock ∧ u.resetLine = true := by
  obtain ⟨t, ht⟩ := exec_next (decode code) s
  have hr : t.resetLine = true := by rw [(exec_env ht).resetLine, h]
  exact ⟨t, by simp only [runEvent, ht]; exact holdReset_asserted hr, hr⟩

/-- The next event is the tick exactly when `TickNext` says so. -/
theorem nextEvent_tick {s : State} (h : TickNext s) : nextEvent s = tickEvent s := by
  obtain h | ⟨d, op, w, ps, h, hd⟩ | ⟨d, l, ps, h, hd⟩ := h
  · exact nextEvent_nil h
  · exact nextEvent_bus_late h hd
  · exact nextEvent_reset_late h hd

/-- What is pending decides: the tick, a host access, or a change of the reset input. -/
theorem nextEvent_decides (s : State) :
    (TickNext s ∧ nextEvent s = tickEvent s) ∨
    (∃ op w ps d, HostAccessNext s op w ∧ s.pending = { delay := d, action := .bus op w } :: ps ∧
      nextEvent s = .run (.hbus op w) { s with pending := ps, phase := s.phase + d }) ∨
    (∃ l ps d, ResetChangeNext s l ∧ s.pending = { delay := d, action := .resetInput l } :: ps ∧
      d ≤ timeToTick s ∧ nextEvent s = .resetInput l { s with pending := ps, phase := s.phase + d }) := by
  match hp : s.pending with
  | [] => exact .inl ⟨.inl hp, nextEvent_nil hp⟩
  | ⟨d, .bus op w⟩ :: ps =>
    by_cases hd : d < timeToTick s
    · exact .inr (.inl ⟨op, w, ps, d, ⟨d, ps, hp, hd⟩, rfl, nextEvent_bus hp hd⟩)
    · have hd := Nat.not_lt.mp hd
      exact .inl ⟨.inr (.inl ⟨d, op, w, ps, hp, hd⟩), nextEvent_bus_late hp hd⟩
  | ⟨d, .resetInput l⟩ :: ps =>
    by_cases hd : d ≤ timeToTick s
    · exact .inr (.inr ⟨l, ps, d, ⟨d, ps, hp, hd⟩, rfl, hd, nextEvent_reset hp hd⟩)
    · have hd := Nat.not_le.mp hd
      exact .inl ⟨.inr (.inr ⟨d, l, ps, hp, hd⟩), nextEvent_reset_late hp hd⟩

/-- A tick's event runs STATE with some sample, in a state that differs from this one only in its time base and line. -/
theorem tickEvent_run (s : State) : ∃ l u, tickEvent s = .run (.fsm s.stateReg l) u ∧ TickState s u := by
  refine ⟨_, _, rfl, ?_⟩
  unfold TickState
  rw [drawSample_snd]
  rfl

/-- The inversion of `step`: the block is held at reset, or a tick, a host access or a change of the reset input was run. -/
theorem step_cases {s t : State} (h : step s = .next t) :
    ((s.resetLine = true ∨ ResetChangeNext s true) ∧ ∃ u : State, t = { u.resetBlock with resetLine := t.resetLine }) ∨
    (s.resetLine = false ∧ TickNext s ∧
      ∃ l u, TickState s u ∧ exec (decode (.fsm s.stateReg l)) u = .next t) ∨
    (s.resetLine = false ∧ ∃ op w ps d, HostAccessNext s op w ∧
      s.pending = { delay := d, action := .bus op w } :: ps ∧
      exec (decode (.hbus op w)) { s with pending := ps, phase := s.phase + d } = .next t) ∨
    (s.resetLine = false ∧ ∃ ps d, d ≤ timeToTick s ∧ t = { s with pending := ps, phase := s.phase + d }) := by
  have held : ∀ code u, u.resetLine = true → runEvent (.run code u) = .next t →
      ∃ u : State, t = { u.resetBlock with resetLine := t.resetLine } := by
    intro code u hu h
    obtain ⟨v, hv, -⟩ := runEvent_run_asserted (code := code) hu
    rw [hv] at h
    cases h
    exact ⟨v, rfl⟩
  unfold step at h
  obtain ⟨hn, e⟩ | ⟨op, w, ps, d, hn, hp, e⟩ | ⟨l, ps, d, hn, hp, hd, e⟩ := nextEvent_decides s
  · obtain ⟨l, u, hu, hs⟩ := tickEvent_run s
    rw [e, hu] at h
    have hr : u.resetLine = s.resetLine := by rw [hs]
    by_cases hreset : s.resetLine = true
    · exact .inl ⟨.inl hreset, held _ u (hr.trans hreset) h⟩
    · have hreset : s.resetLine = false := by simpa using hreset
      exact .inr (.inl ⟨hreset, hn, l, u, hs, by rw [← runEvent_run (hr.trans hreset)]; exact h⟩)
  · rw [e] at h
    by_cases hreset : s.resetLine = true
    · exact .inl ⟨.inl hreset, held _ { s with pending := ps, phase := s.phase + d } hreset h⟩
    · have hreset : s.resetLine = false := by simpa using hreset
      rw [runEvent_run (by exact hreset)] at h
      exact .inr (.inr (.inl ⟨hreset, op, w, ps, d, hn, hp, h⟩))
  · rw [e] at h
    simp only [runEvent, State.driveReset] at h
    by_cases hreset : s.resetLine = true
    · simp only [hreset, Bool.true_or, if_true] at h
      cases h
      exact .inl ⟨.inl hreset, _, rfl⟩
    · have hreset : s.resetLine = false := by simpa using hreset
      cases l with
      | true =>
        simp only [hreset, Bool.or_true, if_true] at h
        cases h
        exact .inl ⟨.inr hn, _, rfl⟩
      | false =>
        rw [if_neg (by simp [hreset])] at h
        cases h
        exact .inr (.inr (.inr ⟨hreset, ps, d, hd, rfl⟩))

/-- A host access is a read answered from the register space or a write to it. -/
theorem exec_bus {s t : State} {op : BitVec 9} {w : Word} (h : exec (decode (.hbus op w)) s = .next t) :
    (opWrite op = true ∧ t = memWrite s (opAddr op) w) ∨
    (opWrite op = false ∧ t = s.respond (memRead s (opAddr op))) := by
  by_cases hm : isMapped (opAddr op) = true
  · rcases op_of_mapped op hm with
      rfl | rfl | rfl | rfl | rfl | rfl | rfl | rfl | rfl | rfl | rfl | rfl <;> cases h <;>
      first | exact .inr ⟨rfl, rfl⟩ | exact .inl ⟨rfl, rfl⟩
  · have hm : isMapped (opAddr op) = false := by simpa using hm
    have ne : ∀ k : Addr, isMapped k = true → opAddr op ≠ k := by
      intro k hk e
      rw [e, hk] at hm
      cases hm
    simp only [decode, decodeHost_unmapped hm] at h
    cases ho : opWrite op with
    | true =>
      simp only [ho, if_true] at h
      cases h
      refine .inl ⟨rfl, ?_⟩
      simp only [memWrite, ne 0x00#8 rfl, ne 0x14#8 rfl, if_false]
    | false =>
      simp only [ho, Bool.false_eq_true, if_false] at h
      cases h
      refine .inr ⟨rfl, ?_⟩
      simp only [memRead, ne 0x00#8 rfl, ne 0x04#8 rfl, ne 0x08#8 rfl, ne 0x0C#8 rfl, ne 0x10#8 rfl, ne 0x14#8 rfl,
        if_false]

/-- The inversion of an engine step run in a state whose STATE is the decoded code (R150–R170). -/
theorem exec_engine {s t : State} {l : Level} (h : exec (decode (.fsm s.stateReg l)) s = .next t) :
    ((s.stateReg = 0#4 ∨ s.stateReg = 8#4 ∨ s.stateReg = 9#4 ∨ s.stateReg = 10#4) ∧ t = s) ∨
    (s.stateReg = 1#4 ∧ t = drivePhase 3000 2#4 s) ∨
    (s.stateReg = 2#4 ∧ t = drivePhase 25 3#4 s) ∨
    (s.stateReg = 3#4 ∧ t = waitPhase .low 85 4#4 l s) ∨
    (s.stateReg = 4#4 ∧ t = waitPhase .high 85 5#4 l s) ∨
    (s.stateReg = 5#4 ∧ t = waitPhase .low 56 6#4 l s) ∨
    (s.stateReg = 6#4 ∧ l = .low ∧ t = takeBit s.c.toNat s) ∨
    (s.stateReg = 6#4 ∧ l = .high ∧ 75 < s.c.toNat ∧ t = s.finish .timeoutErr) ∨
    (s.stateReg = 6#4 ∧ l = .high ∧ s.c.toNat ≤ 75 ∧ t = s.setC (s.c + 1#12)) ∨
    (s.stateReg = 7#4 ∧ checksumOk s.f = true ∧
      t = { s with hum := humidity s.f, temp := temperature s.f }.finish .success) ∨
    (s.stateReg = 7#4 ∧ checksumOk s.f = false ∧ t = s.finish .checksumErr) ∨
    (11 ≤ s.stateReg.toNat ∧ t = s.goto 0#4) := by
  have codes : ∀ x : BitVec 4, x = 0#4 ∨ x = 1#4 ∨ x = 2#4 ∨ x = 3#4 ∨ x = 4#4 ∨ x = 5#4 ∨ x = 6#4 ∨ x = 7#4 ∨
      x = 8#4 ∨ x = 9#4 ∨ x = 10#4 ∨ 11 ≤ x.toNat := by decide
  obtain e | e | e | e | e | e | e | e | e | e | e | e := codes s.stateReg
  · rw [e] at h; cases h; exact .inl ⟨.inl e, rfl⟩
  · rw [e] at h; cases h; exact .inr (.inl ⟨e, rfl⟩)
  · rw [e] at h; cases h; exact .inr (.inr (.inl ⟨e, rfl⟩))
  · rw [e] at h; cases h; exact .inr (.inr (.inr (.inl ⟨e, rfl⟩)))
  · rw [e] at h; cases h; exact .inr (.inr (.inr (.inr (.inl ⟨e, rfl⟩))))
  · rw [e] at h; cases h; exact .inr (.inr (.inr (.inr (.inr (.inl ⟨e, rfl⟩)))))
  · rw [e] at h
    change execEngBitHigh l s = .next t at h
    obtain ⟨hl, hb⟩ | ⟨hl, hc, hb⟩ | ⟨hl, hc, hb⟩ := execEngBitHigh_cases l s <;> rw [hb] at h <;> cases h
    · exact .inr (.inr (.inr (.inr (.inr (.inr (.inl ⟨e, hl, rfl⟩))))))
    · exact .inr (.inr (.inr (.inr (.inr (.inr (.inr (.inl ⟨e, hl, hc, rfl⟩)))))))
    · exact .inr (.inr (.inr (.inr (.inr (.inr (.inr (.inr (.inl ⟨e, hl, hc, rfl⟩))))))))
  · rw [e] at h
    change execEngValidate s = .next t at h
    unfold execEngValidate at h
    split at h <;> cases h
    · exact .inr (.inr (.inr (.inr (.inr (.inr (.inr (.inr (.inr (.inl ⟨e, ‹_›, rfl⟩)))))))))
    · refine .inr (.inr (.inr (.inr (.inr (.inr (.inr (.inr (.inr (.inr (.inl ⟨e, ?_, rfl⟩))))))))))
      simpa using ‹¬checksumOk s.f = true›
  · rw [e] at h; cases h; exact .inl ⟨.inr (.inl e), rfl⟩
  · rw [e] at h; cases h; exact .inl ⟨.inr (.inr (.inl e)), rfl⟩
  · rw [e] at h; cases h; exact .inl ⟨.inr (.inr (.inr e)), rfl⟩
  · have reserved : ∀ x : BitVec 4, 11 ≤ x.toNat → decodeEngine x l = .engReserved x := by
      cases l <;> decide
    simp only [decode, reserved _ e] at h
    cases h
    exact .inr (.inr (.inr (.inr (.inr (.inr (.inr (.inr (.inr (.inr (.inr ⟨e, rfl⟩))))))))))

end Sys2Proof.Machine
end

