-- ==== Sys2Proof/Laws/Run.lean ====
section
/-! SUPPORT. Running to the next tick (R95's TICKS): the actions that come before it, then the tick itself. -/

namespace Sys2Proof.Machine

/-- A step that is no tick takes one action off the pending ones. -/
theorem pending_of_not_tick {s : State} (h : tickIsNext s = false) :
    ∃ t, step s = .next t ∧ t.pending.length + 1 = s.pending.length := by
  obtain hn | ⟨d, op, w, ps, hp, -, hn⟩ | ⟨d, l, ps, hp, -, hn⟩ := nextEvent_cases s
  · simp [tickIsNext, hn, tickEvent] at h
  · obtain ⟨u, hu⟩ := exec_next (decode (.hbus op w)) { s with pending := ps, phase := s.phase + d }
    have env := (exec_env hu).pending
    simp only [step, hn, runEvent, hu, holdReset]
    split <;> exact ⟨_, rfl, by simp [hp, env]⟩
  · simp only [step, hn, runEvent, State.driveReset]
    split <;> exact ⟨_, rfl, by simp [hp]⟩

/-- With nothing pending the tick is next. -/
theorem tickIsNext_nil {s : State} (h : s.pending = []) : tickIsNext s = true := by
  simp [tickIsNext, nextEvent_nil h, tickEvent]

/-- Everything `runToTick` does, with fuel for what is pending: some steps that are no ticks, then the tick. -/
theorem runToTick_spec (fuel : Nat) (s : State) (h : s.pending.length ≤ fuel) :
    ∃ k u, runSteps k s = .next u ∧ (∀ j, j ≤ k → ticksIn j s = 0) ∧ tickIsNext u = true ∧ runToTick fuel s = step u := by
  induction fuel generalizing s with
  | zero =>
    have hp : s.pending = [] := List.length_eq_zero_iff.mp (Nat.le_zero.mp h)
    exact ⟨0, s, rfl, fun j hj => by rw [Nat.le_zero.mp hj]; rfl, tickIsNext_nil hp, rfl⟩
  | succ fuel ih =>
    cases ht : tickIsNext s with
    | true => exact ⟨0, s, rfl, fun j hj => by rw [Nat.le_zero.mp hj]; rfl, ht, by simp [runToTick, ht]⟩
    | false =>
      obtain ⟨t, hs, hl⟩ := pending_of_not_tick ht
      obtain ⟨k, u, h1, h2, h3, h4⟩ := ih t (by omega)
      refine ⟨k + 1, u, by simpa [runSteps, hs] using h1, fun j hj => ?_, h3, by simpa [runToTick, ht, hs] using h4⟩
      cases j with
      | zero => rfl
      | succ j => simpa [ticksIn, ht, hs] using h2 j (by omega)

end Sys2Proof.Machine
end

