-- ==== Sys2Proof/Tests/Slice0.lean ====
section
/-! SUPPORT. The model's own tests. Expected values are those of spec/95_test_vectors.md or of the rule named; the last
section shows, for each obligation with hypotheses, a state and operands that meet them. -/

open Sys2Proof Sys2Proof.Machine

namespace Tests

/-! ### Well-formedness: each check refuses a term -/

theorem test_wf_refuses_rdUnmapped_of_a_register : (Instr.rdUnmapped 0x14#8).wellFormed = false := by decide
theorem test_wf_refuses_wrUnmapped_of_a_register : (Instr.wrUnmapped 0x00#8 1#32).wellFormed = false := by decide
theorem test_wf_refuses_engReserved_below_eleven : (Instr.engReserved 10#4).wellFormed = false := by decide
theorem test_wf_takes_misaligned_and_high_addresses :
    (Instr.rdUnmapped 0x15#8).wellFormed = true ∧ (Instr.wrUnmapped 0x18#8 0#32).wellFormed = true ∧
    (Instr.engReserved 11#4).wellFormed = true := by decide

/-! ### Decoding: one word per constructor, from R81, R91 and R92, bit by bit -/

theorem test_decode_ctrl :
    decode (.hbus 0b000000000#9 7#32) = .rdCtrl ∧ decode (.hbus 0b100000000#9 7#32) = .wrCtrl 7#32 := by decide
theorem test_decode_status :
    decode (.hbus 0b000000100#9 7#32) = .rdStatus ∧ decode (.hbus 0b100000100#9 7#32) = .wrStatus 7#32 := by decide
theorem test_decode_humidity :
    decode (.hbus 0b000001000#9 7#32) = .rdHumidity ∧ decode (.hbus 0b100001000#9 7#32) = .wrHumidity 7#32 := by decide
theorem test_decode_temperature :
    decode (.hbus 0b000001100#9 7#32) = .rdTemperature ∧
    decode (.hbus 0b100001100#9 7#32) = .wrTemperature 7#32 := by decide
theorem test_decode_reading :
    decode (.hbus 0b000010000#9 7#32) = .rdReading ∧ decode (.hbus 0b100010000#9 7#32) = .wrReading 7#32 := by decide
theorem test_decode_pin :
    decode (.hbus 0b000010100#9 7#32) = .rdPin ∧ decode (.hbus 0b100010100#9 7#32) = .wrPin 7#32 := by decide
/-- R62: 0x18 is past the map, 0x01 is misaligned inside CTRL. -/
theorem test_decode_unmapped :
    decode (.hbus 0b000011000#9 7#32) = .rdUnmapped 0x18#8 ∧
    decode (.hbus 0b100000001#9 7#32) = .wrUnmapped 0x01#8 7#32 := by decide
theorem test_decode_drive_states :
    decode (.fsm 0b0000#4 .high) = .engIdle ∧ decode (.fsm 0b0001#4 .high) = .engWakeLow ∧
    decode (.fsm 0b0010#4 .high) = .engReqHigh := by decide
theorem test_decode_wait_states :
    decode (.fsm 0b0011#4 .high) = .engAckLow .high ∧ decode (.fsm 0b0100#4 .low) = .engAckHigh .low ∧
    decode (.fsm 0b0101#4 .high) = .engBitLow .high ∧ decode (.fsm 0b0110#4 .low) = .engBitHigh .low := by decide
theorem test_decode_last_states :
    decode (.fsm 0b0111#4 .high) = .engValidate ∧ decode (.fsm 0b1000#4 .high) = .engSuccess ∧
    decode (.fsm 0b1001#4 .high) = .engTimeoutErr ∧ decode (.fsm 0b1010#4 .high) = .engChecksumErr ∧
    decode (.fsm 0b1111#4 .high) = .engReserved 15#4 := by decide

/-- R94's example line: `WR PIN, 0x04` is OP 0x114 with WDATA 4. The byte image is the model's own (log 11). -/
theorem test_bytes_of_wr_pin :
    encodeBytes (.wrPin 0x00000004#32) = [0x14#8, 0x01#8, 0x04#8, 0x00#8, 0x00#8, 0x00#8] := by decide
theorem test_bytes_refused_by_name :
    decodeBytes .hbus [0x14#8, 0x02#8, 0#8, 0#8, 0#8, 0#8] = .error .selectorTooWide ∧
    decodeBytes .hbus [0x14#8, 0x01#8, 0#8] = .error .truncated ∧
    decodeBytes .fsm [0x03#8, 0x02#8] = .error .sampleNotABit := by
  refine ⟨rfl, rfl, rfl⟩

/-! ### One step: the vectors of 95_test_vectors.md -/

/-- An outcome's next state; the reset state where there is none. -/
def after : Host.Outcome State Fault Refusal → State
  | .next t => t
  | _ => State.reset

/-- A state with a STATE code and a count; PIN is 9. -/
def at' (code : BitVec 4) (c : BitVec 12) : State := { State.reset with stateReg := code, c := c, pin := 9#8 }

/-- The state of `at'` with samples to come. -/
def waitAt (code : BitVec 4) (c : BitVec 12) (l : Level) : State := { at' code c with line := [l] }

/-- The state of `at'` with one host access to come. -/
def busAt (code : BitVec 4) (op : BitVec 9) (w : Word) : State :=
  { at' code 0#12 with pending := [{ delay := 10, action := .bus op w }] }

/-- §2.1, ACK_LOW rows. -/
theorem test_ack_low_bound :
    (after (step (waitAt 3#4 0#12 .high))).stateReg = 4#4 ∧ (after (step (waitAt 3#4 0#12 .high))).c = 1#12 ∧
    (after (step (waitAt 3#4 85#12 .low))).c = 86#12 ∧ (after (step (waitAt 3#4 86#12 .high))).stateReg = 4#4 ∧
    (after (step (waitAt 3#4 86#12 .low))).stateReg = 9#4 := by decide
/-- R153, R139: ACK_HIGH waits while high. -/
theorem test_ack_high_bound :
    (after (step (waitAt 4#4 86#12 .low))).stateReg = 5#4 ∧ (after (step (waitAt 4#4 86#12 .high))).stateReg = 9#4 ∧
    (after (step (waitAt 4#4 85#12 .high))).c = 86#12 := by decide
/-- §2.1, BIT_LOW rows. -/
theorem test_bit_low_bound :
    (after (step (waitAt 5#4 57#12 .low))).stateReg = 9#4 ∧ (after (step (waitAt 5#4 57#12 .high))).stateReg = 6#4 ∧
    (after (step (waitAt 5#4 57#12 .high))).c = 1#12 := by decide
/-- §2.1, BIT_HIGH rows, with the bit going to F[0][0] (§2.3, row 0,0). -/
theorem test_bit_high_threshold :
    (after (step (waitAt 6#4 40#12 .low))).f.b0 = 0x00#8 ∧
    (after (step { waitAt 6#4 41#12 .low with bitIdx := 0#3 })).f.b0 = 0x01#8 ∧
    (after (step { waitAt 6#4 41#12 .low with bitIdx := 0#3 })).byteIdx = 1#3 ∧
    (after (step { waitAt 6#4 41#12 .low with bitIdx := 0#3 })).bitIdx = 7#3 ∧
    (after (step (waitAt 6#4 76#12 .high))).stateReg = 9#4 := by decide
/-- §2.3, row 4,0: the 40th bit enters VALIDATE with C = 0. -/
theorem test_fortieth_bit :
    (after (step { waitAt 6#4 26#12 .low with byteIdx := 4#3, bitIdx := 0#3 })).stateReg = 7#4 ∧
    (after (step { waitAt 6#4 26#12 .low with byteIdx := 4#3, bitIdx := 0#3 })).c = 0#12 := by decide
/-- §2.2. -/
theorem test_wake_low_end :
    (after (step (at' 1#4 2998#12))).c = 2999#12 ∧ (after (step (at' 1#4 2999#12))).stateReg = 2#4 ∧
    (after (step (at' 1#4 2999#12))).c = 0#12 ∧ padOut (after (step (at' 1#4 2999#12))) = true := by decide
/-- §2.2: tick 3025. -/
theorem test_req_high_end :
    (after (step (at' 2#4 24#12))).stateReg = 3#4 ∧ padOe (after (step (at' 2#4 24#12))) = false ∧
    padOut (at' 2#4 24#12) = true := by decide
/-- §2.4: the frame 01 F4 80 65 DA. -/
theorem test_validate_negative_temperature :
    (after (step { at' 7#4 0#12 with f := ⟨0x01#8, 0xF4#8, 0x80#8, 0x65#8, 0xDA#8⟩ })).stateReg = 8#4 ∧
    (after (step { at' 7#4 0#12 with f := ⟨0x01#8, 0xF4#8, 0x80#8, 0x65#8, 0xDA#8⟩ })).hum = 0x01F4#16 ∧
    (after (step { at' 7#4 0#12 with f := ⟨0x01#8, 0xF4#8, 0x80#8, 0x65#8, 0xDA#8⟩ })).temp = 0xFF9B#16 := by decide
/-- E2: a wrong checksum keeps the reading. -/
theorem test_validate_mismatch :
    (after (step { at' 7#4 0#12 with f := ⟨0x02#8, 0x8C#8, 0x01#8, 0x5F#8, 0x00#8⟩, hum := 5#16 })).stateReg = 10#4 ∧
    (after (step { at' 7#4 0#12 with f := ⟨0x02#8, 0x8C#8, 0x01#8, 0x5F#8, 0x00#8⟩, hum := 5#16 })).hum = 5#16 := by
  decide
/-- §2.4: carry out of the sum, negative zero, the two extremes. -/
theorem test_conversions :
    checksumOk ⟨0xFF#8, 0xFF#8, 0xFF#8, 0xFF#8, 0xFC#8⟩ = true ∧ checksumOk ⟨0x80#8, 0x80#8, 0x80#8, 0x80#8, 0x00#8⟩ = true ∧
    temperature ⟨0#8, 0#8, 0x80#8, 0x00#8, 0#8⟩ = 0x0000#16 ∧ temperature ⟨0#8, 0#8, 0xFF#8, 0xFF#8, 0#8⟩ = 0x8001#16 ∧
    temperature ⟨0#8, 0#8, 0x7F#8, 0xFF#8, 0#8⟩ = 0x7FFF#16 ∧ humidity ⟨0xAA#8, 0x55#8, 0#8, 0#8, 0#8⟩ = 0xAA55#16 := by
  decide
/-- R166–R169: the idle and terminal states stay. -/
theorem test_idle_and_terminal_stay :
    (after (step (at' 0#4 0#12))).stateReg = 0#4 ∧ (after (step (at' 8#4 0#12))).stateReg = 8#4 ∧
    (after (step (at' 9#4 0#12))).stateReg = 9#4 ∧ (after (step (at' 10#4 0#12))).stateReg = 10#4 := by decide
/-- R170's example. -/
theorem test_reserved_code : (after (step (at' 12#4 5#12))).stateReg = 0#4 ∧ (after (step (at' 12#4 5#12))).c = 5#12 := by
  decide

/-- §2.5: START in IDLE, with bit 0 clear, and in STATE 5. -/
theorem test_wr_ctrl :
    (after (step (busAt 0#4 0x100#9 0x1#32))).stateReg = 1#4 ∧
    (after (step (busAt 0#4 0x100#9 0xFFFFFFFE#32))).stateReg = 0#4 ∧
    (after (step (busAt 5#4 0x100#9 0x1#32))).stateReg = 5#4 := by decide
/-- §2.5: the STATUS rows. -/
theorem test_rd_status :
    (after (step (busAt 1#4 0x004#9 0#32))).rdata = 0x00000011#32 ∧
    (after (step (busAt 7#4 0x004#9 0#32))).rdata = 0x00000071#32 ∧
    (after (step (busAt 8#4 0x004#9 0#32))).rdata = 0x00000082#32 ∧
    (after (step (busAt 9#4 0x004#9 0#32))).rdata = 0x00000094#32 ∧
    (after (step (busAt 10#4 0x004#9 0#32))).rdata = 0x000000A6#32 := by decide
/-- §2.5: HUM 500, TEMP 0xFF9B. -/
theorem test_rd_readings :
    (after (step { busAt 8#4 0x008#9 0#32 with hum := 500#16, temp := 0xFF9B#16 })).rdata = 0x000001F4#32 ∧
    (after (step { busAt 8#4 0x00C#9 0#32 with hum := 500#16, temp := 0xFF9B#16 })).rdata = 0xFFFFFF9B#32 ∧
    (after (step { busAt 8#4 0x010#9 0#32 with hum := 500#16, temp := 0xFF9B#16 })).rdata = 0xFF9B01F4#32 := by decide
/-- §2.5: the PIN rows. -/
theorem test_pin :
    (after (step (busAt 0#4 0x114#9 0x00000104#32))).pin = 0x04#8 ∧ (after (step (busAt 5#4 0x114#9 0x07#32))).pin = 9#8 ∧
    (after (step (busAt 0#4 0x014#9 0#32))).rdata = 0x00000009#32 := by decide
/-- §2.5: CTRL and unmapped reads, and the misaligned write that is not CTRL. -/
theorem test_ctrl_and_unmapped :
    (after (step { busAt 9#4 0x000#9 0#32 with rdata := 3#32 })).rdata = 0#32 ∧
    (after (step { busAt 9#4 0x005#9 0#32 with rdata := 3#32 })).rdata = 0#32 ∧
    (after (step { busAt 9#4 0x0FC#9 0#32 with rdata := 3#32 })).rdata = 0#32 ∧
    (after (step (busAt 0#4 0x101#9 0x1#32))).stateReg = 0#4 := by decide
/-- §2.5: writes to read-only registers. -/
theorem test_read_only_writes :
    (after (step (busAt 9#4 0x104#9 0#32))).stateReg = 9#4 ∧
    (after (step { busAt 8#4 0x108#9 0#32 with hum := 652#16 })).hum = 652#16 ∧
    (after (step { busAt 8#4 0x10C#9 0#32 with temp := 351#16 })).temp = 351#16 ∧
    (after (step { busAt 8#4 0x110#9 0#32 with hum := 652#16 })).hum = 652#16 := by decide

/-- §2.6: reset releases the pad at once and clears the reading. -/
theorem test_reset_releases_pad :
    let s := { at' 1#4 7#12 with hum := 652#16, pending := [{ delay := 3, action := .resetInput true }] }
    padOe s = true ∧ padOe (after (step s)) = false ∧ (after (step s)).stateReg = 0#4 ∧ (after (step s)).hum = 0#16 := by
  decide
/-- §2.6: reset in the same tick as an engine step wins. -/
theorem test_reset_beats_tick :
    let s := { at' 7#4 0#12 with pending := [{ delay := 1000, action := .resetInput true }] }
    (after (step s)).stateReg = 0#4 ∧ (after (step s)).tickNo = 0 := by decide
/-- R71: a STATUS read right after START shows it, with no tick in between. -/
theorem test_start_then_status :
    let s := { at' 8#4 0#12 with
      pending := [{ delay := 1, action := .bus 0x100#9 1#32 }, { delay := 1, action := .bus 0x004#9 0#32 }] }
    (after (step (after (step s)))).rdata = 0x00000011#32 := by decide
/-- The two places a word can be put for the host's probe. -/
theorem test_withFetchWord :
    (after (step (State.reset.withFetchWord 8 0xC))).stateReg = 0#4 ∧
    (after (step (State.reset.withFetchWord 8 0x6))).bitIdx = 6#3 ∧
    (after (step ({ State.reset with rdata := 5#32 }.withFetchWord 16 0x004))).rdata = 0#32 := by decide

/-- R95: the host's poll loop on a finished decode leaves STATUS in `a` and goes on. -/
theorem test_poll_ends :
    ∃ h t, hostRun 4 ⟨Pseudo.expand (.poll 1), 0, 0#32, false, 0⟩ (at' 9#4 0#12) = .next (h, t) ∧
      h.a = 0x00000094#32 ∧ h.pc = 4 := ⟨_, _, rfl, by decide, by decide⟩
/-- R95: `TICKS 1` with a reset assertion pending before the tick: the reset takes a step of its own, and one tick passes. -/
theorem test_ticks_with_reset_pending :
    let s := { at' 9#4 0#12 with pending := [{ delay := 3, action := .resetInput true }] }
    (after ((HostLine.ticks 1).effect 0 s)).stateReg = 0#4 ∧ (after ((HostLine.ticks 1).effect 0 s)).pending = [] ∧
    runTicks 1 s = runSteps 2 s := ⟨by decide, by decide, rfl⟩
/-- A line issued at the moment of a tick is run after it (log 8). -/
theorem test_issue_at_the_tick :
    (after ((HostLine.rd (.reg .status)).effect 0 { at' 9#4 0#12 with phase := 1000 })).rdata = 0x00000094#32 ∧
    (after ((HostLine.rd (.reg .status)).effect 0 { at' 9#4 0#12 with phase := 1000 })).tickNo = 1 := by decide
/-- Of two lines with one label a branch takes the first (log 14). -/
theorem test_first_label_counts : findLabel 7 [.bit 0, .label 7, .bit 1, .label 7] = 2 := by decide

/-- R116: HUM 652 is 65.2, TEMP 0xFF9B is -10.1. -/
theorem test_decimals :
    currentHumidity { at' 8#4 0#12 with hum := 652#16 } = 652 / 10 ∧
    currentTemperature { at' 8#4 0#12 with temp := 0xFF9B#16 } = -101 / 10 := by
  have h : (humidityWord { at' 8#4 0#12 with hum := 652#16 }).toNat = 652 := by decide
  have t : (temperatureWord { at' 8#4 0#12 with temp := 0xFF9B#16 }).toInt = -101 := by decide
  constructor
  · rw [currentHumidity, h]; norm_num
  · rw [currentTemperature, t]; norm_num

/-! ### Witnesses: for each obligation with hypotheses, a state and operands that meet them, clause by clause, at the
ends of their ranges -/

/-- A state with one pending action due `delay` ns after phase 600. -/
def actionAt (code : BitVec 4) (delay : Nat) (a : Action) : State :=
  { at' code 0#12 with phase := 600, pending := [{ delay := delay, action := a }] }

/-- A state right after an accepted START, with this line. -/
def started (l : List Level) : State := { at' 1#4 0#12 with line := l }

/-- All runs as short as they can be: forty 0 bits. -/
def shortRuns : List Nat := 0 :: List.replicate 81 1

/-- All runs at their bounds: forty 1 bits. -/
def longRuns : List Nat := [86, 86] ++ (List.replicate 40 [57, 76]).flatten

theorem witness_ResetOverridesEveryEvent :
    (actionAt 6#4 400 (.resetInput true)).pending = { delay := 400, action := .resetInput true } :: [] ∧
    400 ≤ 1000 - (actionAt 6#4 400 (.resetInput true)).phase ∧
    { at' 0#4 0#12 with resetLine := true }.resetLine = true ∧
    { actionAt 0#4 400 (.resetInput false) with resetLine := true }.pending =
      { delay := 400, action := .resetInput false } :: [] ∧
    400 ≤ 1000 - { actionAt 0#4 400 (.resetInput false) with resetLine := true }.phase := by decide

theorem witness_ResetReleaseWhileReleasedHasNoEffect :
    let s := actionAt 6#4 400 (.resetInput false)
    s.resetLine = false ∧ s.pending = { delay := 400, action := .resetInput false } :: [] ∧ s.phase + 400 ≤ 1000 := by decide

theorem witness_StepRunsDecodedInstruction_access :
    let s := actionAt 6#4 399 (.bus 0x004#9 0#32)
    s.resetLine = false ∧ s.pending = { delay := 399, action := .bus 0x004#9 0#32 } :: [] ∧ s.phase + 399 < 1000 := by
  decide

/-- The three forms of "the tick is next", each at its boundary; the states on both sides of 3..6; a line that shows a
sample and one that is used up. -/
theorem witness_StepRunsDecodedInstruction_tick :
    let a := waitAt 3#4 0#12 .low
    let b := actionAt 6#4 400 (.bus 0x004#9 0#32)
    let c := actionAt 7#4 401 (.resetInput true)
    let d := at' 2#4 24#12
    (a.resetLine = false ∧ TickNext a ∧ 3 ≤ a.stateReg.toNat ∧ a.stateReg.toNat ≤ 6 ∧ a.line = .low :: []) ∧
    (b.resetLine = false ∧ TickNext b ∧ 3 ≤ b.stateReg.toNat ∧ b.stateReg.toNat ≤ 6 ∧ b.line = []) ∧
    (c.resetLine = false ∧ TickNext c ∧ ¬(3 ≤ c.stateReg.toNat ∧ c.stateReg.toNat ≤ 6)) ∧
    (d.resetLine = false ∧ TickNext d ∧ ¬(3 ≤ d.stateReg.toNat ∧ d.stateReg.toNat ≤ 6)) :=
  ⟨⟨rfl, .inl rfl, by decide, by decide, rfl⟩,
    ⟨rfl, .inr (.inl ⟨400, 0x004#9, 0#32, [], rfl, by decide⟩), by decide, by decide, rfl⟩,
    ⟨rfl, .inr (.inr ⟨401, true, [], rfl, by decide⟩), by decide⟩, ⟨rfl, .inl rfl, by decide⟩⟩

theorem witness_DecodeBytesOfEncodeBytes :
    (Instr.wrUnmapped 0x15#8 0xFFFFFFFF#32).wellFormed = true ∧ (Instr.engReserved 11#4).wellFormed = true ∧
    (Instr.wrCtrl 0x80000000#32).wellFormed = true ∧ (Instr.engBitHigh .high).wellFormed = true := by decide

theorem witness_unmapped_selectors :
    (0x015#9 : BitVec 9).getLsbD 8 = false ∧ isMapped ((0x015#9 : BitVec 9).extractLsb' 0 8) = false ∧
    (0x101#9 : BitVec 9).getLsbD 8 = true ∧ isMapped ((0x101#9 : BitVec 9).extractLsb' 0 8) = false := by decide

theorem witness_ControlWriteStartsDecodeUnlessBusy :
    (0x1#32 : Word).toNat % 2 = 1 ∧ (0xFFFFFFFE#32 : Word).toNat % 2 = 0 ∧
    ¬(1 ≤ (at' 0#4 0#12).stateReg.toNat ∧ (at' 0#4 0#12).stateReg.toNat ≤ 7) ∧
    ¬(1 ≤ (at' 8#4 0#12).stateReg.toNat ∧ (at' 8#4 0#12).stateReg.toNat ≤ 7) ∧
    (1 ≤ (at' 1#4 0#12).stateReg.toNat ∧ (at' 1#4 0#12).stateReg.toNat ≤ 7) ∧
    (1 ≤ (at' 7#4 0#12).stateReg.toNat ∧ (at' 7#4 0#12).stateReg.toNat ≤ 7) := by decide

theorem witness_PinWriteTakesLowByteUnlessBusy :
    ¬(1 ≤ (at' 10#4 0#12).stateReg.toNat ∧ (at' 10#4 0#12).stateReg.toNat ≤ 7) ∧
    (1 ≤ (at' 7#4 0#12).stateReg.toNat ∧ (at' 7#4 0#12).stateReg.toNat ≤ 7) := by decide

theorem witness_BusAccessIsRegisterSpaceAccess :
    (0x01#8 : Addr).toNat % 4 ≠ 0 ∧ 0x14 < (0x18#8 : Addr).toNat ∧ 0x14 < (0xFC#8 : Addr).toNat := by decide

theorem witness_HostAccessRevealsNoHiddenState :
    let s := at' 6#4 40#12
    let s' := { at' 6#4 41#12 with byteIdx := 3#3, phase := 500 }
    s ≠ s' ∧ s.stateReg = s'.stateReg ∧ s.hum = s'.hum ∧ s.temp = s'.temp ∧ s.pin = s'.pin ∧ s.rdata = s'.rdata := by decide

theorem witness_HostAccessWhileBusyLeavesDecodeAlone :
    let s := actionAt 7#4 399 (.bus 0x100#9 1#32)
    1 ≤ s.stateReg.toNat ∧ s.stateReg.toNat ≤ 7 ∧ s.resetLine = false ∧
    s.pending = { delay := 399, action := .bus 0x100#9 1#32 } :: [] ∧ s.phase + 399 < 1000 := by decide

theorem witness_StartIsVisibleToTheNextAccess :
    let s := { actionAt 8#4 0 (.bus 0x100#9 1#32) with
      pending := [{ delay := 399, action := .bus 0x100#9 1#32 }, { delay := 999, action := .bus 0x004#9 0#32 }] }
    let s' := { actionAt 0#4 0 (.bus 0x100#9 1#32) with
      pending := [{ delay := 399, action := .bus 0x100#9 1#32 }, { delay := 999, action := .bus 0x114#9 4#32 }] }
    ¬(1 ≤ s.stateReg.toNat ∧ s.stateReg.toNat ≤ 7) ∧ ¬(1 ≤ s'.stateReg.toNat ∧ s'.stateReg.toNat ≤ 7) ∧
    s.resetLine = false ∧ s'.resetLine = false ∧ (1#32 : Word).toNat % 2 = 1 ∧ s.phase + 399 < 1000 ∧
    s'.phase + 399 < 1000 ∧ (999 : Nat) < 1000 ∧
    s.pending = { delay := 399, action := .bus 0x100#9 1#32 } :: { delay := 999, action := .bus 0x004#9 0#32 } :: [] ∧
    s'.pending = { delay := 399, action := .bus 0x100#9 1#32 } :: { delay := 999, action := .bus 0x114#9 4#32 } :: [] := by
  decide

/-- The access after START comes just before tick 1, and at it. -/
theorem witness_StartRestartsTheTimeBase :
    let s := fun d' : Nat => { actionAt 9#4 0 (.bus 0x100#9 1#32) with
      pending := [{ delay := 399, action := .bus 0x100#9 1#32 }, { delay := d', action := .bus 0x004#9 0#32 }] }
    ¬(1 ≤ (s 999).stateReg.toNat ∧ (s 999).stateReg.toNat ≤ 7) ∧ (s 999).resetLine = false ∧ (s 999).phase + 399 < 1000 ∧
    (after (step (s 999))).pending = [{ delay := 999, action := .bus 0x004#9 0#32 }] ∧
    (after (step (s 1000))).pending = [{ delay := 1000, action := .bus 0x004#9 0#32 }] := by decide

theorem witness_drive_counts :
    (at' 1#4 2999#12).c.toNat + 1 = 3000 ∧ (at' 1#4 2998#12).c.toNat + 1 ≠ 3000 ∧ (at' 1#4 0#12).stateReg = 1#4 ∧
    (at' 2#4 24#12).c.toNat + 1 = 25 ∧ (at' 2#4 23#12).c.toNat + 1 ≠ 25 ∧ (at' 2#4 0#12).stateReg = 2#4 := by decide

theorem witness_wait_bounds :
    85 < (at' 3#4 86#12).c.toNat ∧ (at' 3#4 85#12).c.toNat ≤ 85 ∧ 56 < (at' 5#4 57#12).c.toNat ∧
    (at' 5#4 56#12).c.toNat ≤ 56 ∧ 75 < (at' 6#4 76#12).c.toNat ∧ (at' 6#4 75#12).c.toNat ≤ 75 := by decide

/-- Both sides of the threshold at the first and the last position, and both values of BYTEIDX after it. -/
theorem witness_BitHighClassifiesAndPacks :
    let s := { at' 6#4 41#12 with byteIdx := 4#3, bitIdx := 0#3 }
    40 < s.c.toNat ∧ s.byteIdx.toNat ≤ 4 ∧ (at' 6#4 40#12).c.toNat ≤ 40 ∧
    (after (exec (.engBitHigh .low) s)).byteIdx.toNat = 5 ∧
    (after (exec (.engBitHigh .low) (at' 6#4 40#12))).byteIdx.toNat ≠ 5 := by decide

theorem witness_ClassifyIsStrictlyAboveForty : classify 41 = true ∧ 41 ≤ 76 := by decide

theorem witness_ValidateStoresReadingOnMatchingChecksum :
    let f : Frame := ⟨0xFF#8, 0xFF#8, 0xFF#8, 0xFF#8, 0xFC#8⟩
    let g : Frame := ⟨0xFF#8, 0xFF#8, 0xFF#8, 0xFF#8, 0xFF#8⟩
    (f.b0.toNat + f.b1.toNat + f.b2.toNat + f.b3.toNat) % 256 = f.b4.toNat ∧
    (g.b0.toNat + g.b1.toNat + g.b2.toNat + g.b3.toNat) % 256 ≠ g.b4.toNat := by decide

theorem witness_TemperatureIsSignMagnitudeInRange :
    let f := fun (h l : Byte) => (⟨0#8, 0#8, h, l, 0#8⟩ : Frame)
    ((f 0x80#8 0x00#8).b2 = 0x80#8 ∧ (f 0x80#8 0x00#8).b3 = 0x00#8) ∧
    ((f 0xFF#8 0xFF#8).b2 = 0xFF#8 ∧ (f 0xFF#8 0xFF#8).b3 = 0xFF#8) ∧
    ((f 0x7F#8 0xFF#8).b2 = 0x7F#8 ∧ (f 0x7F#8 0xFF#8).b3 = 0xFF#8) := by decide

theorem witness_IdleAndTerminalStepsChangeNothing :
    (at' 0#4 0#12).stateReg = 0#4 ∧ (at' 8#4 0#12).stateReg = 8#4 ∧ (at' 9#4 86#12).stateReg = 9#4 ∧
    (at' 10#4 0#12).stateReg = 10#4 := by decide

theorem witness_ReservedCodeRecoversToIdle : 11 ≤ (11#4 : BitVec 4).toNat ∧ 11 ≤ (15#4 : BitVec 4).toNat := by decide

/-- A state in the bit loop, 39 bits packed, the last bit about to end. -/
def lastBit : State := { waitAt 6#4 41#12 .low with f := ⟨0xFF#8, 0xFF#8, 0#8, 0#8, 0xFC#8⟩, byteIdx := 4#3, bitIdx := 0#3 }

theorem lastBit_inv : Inv lastBit := by
  constructor <;> first | decide | exact fun h => absurd h (by decide)

theorem witness_ReachableStateInvariantKept : Inv lastBit ∧ ∃ t, step lastBit = .next t ∧ t.stateReg = 7#4 :=
  ⟨lastBit_inv, _, rfl, by decide⟩

/-- A changed STATE by an engine step, by START and by reset. -/
theorem witness_StateChangesOnlyByTransitionTable :
    (∃ t, step (at' 1#4 2999#12) = .next t ∧ t.stateReg ≠ (at' 1#4 2999#12).stateReg) ∧
    (∃ t, step (busAt 8#4 0x100#9 1#32) = .next t ∧ t.stateReg ≠ (busAt 8#4 0x100#9 1#32).stateReg) ∧
    (∃ t, step (actionAt 6#4 400 (.resetInput true)) = .next t ∧
      t.stateReg ≠ (actionAt 6#4 400 (.resetInput true)).stateReg) :=
  ⟨⟨_, rfl, by decide⟩, ⟨_, rfl, by decide⟩, ⟨_, rfl, by decide⟩⟩

/-- A changed reading by VALIDATE and by reset. -/
theorem witness_ReadingWrittenOnlyByGoodValidate :
    let s := { at' 7#4 0#12 with f := ⟨0x01#8, 0xF4#8, 0x80#8, 0x65#8, 0xDA#8⟩ }
    let r := { actionAt 8#4 400 (.resetInput true) with hum := 1#16 }
    (∃ t, step s = .next t ∧ (t.hum ≠ s.hum ∨ t.temp ≠ s.temp)) ∧
    (∃ t, step r = .next t ∧ (t.hum ≠ r.hum ∨ t.temp ≠ r.temp)) :=
  ⟨⟨_, rfl, by decide⟩, ⟨_, rfl, by decide⟩⟩

theorem witness_PinChangesOnlyByHostWriteWhileIdle :
    ∃ t, step (busAt 10#4 0x114#9 0x104#32) = .next t ∧ t.pin ≠ (busAt 10#4 0x114#9 0x104#32).pin := ⟨_, rfl, by decide⟩

theorem witness_ErrorEntryChangesOnlyState :
    (∃ t, step (waitAt 3#4 86#12 .low) = .next t ∧ t.stateReg ≠ (waitAt 3#4 86#12 .low).stateReg ∧ t.stateReg.toNat = 9) ∧
    (∃ t, step { at' 7#4 0#12 with f := ⟨1#8, 0#8, 0#8, 0#8, 0#8⟩ } = .next t ∧ t.stateReg ≠ 7#4 ∧ t.stateReg.toNat = 10) :=
  ⟨⟨_, rfl, by decide, by decide⟩, ⟨_, rfl, by decide, by decide⟩⟩

theorem witness_TickWhileNotBusyChangesNoRegister :
    (at' 0#4 0#12).stateReg.toNat = 0 ∧ 8 ≤ (at' 8#4 0#12).stateReg.toNat ∧ (at' 10#4 0#12).stateReg.toNat ≤ 10 ∧
    (at' 8#4 0#12).resetLine = false ∧ TickNext (at' 8#4 0#12) := ⟨by decide, by decide, by decide, rfl, .inl rfl⟩

theorem witness_LineIgnoredOutsideWaitStates :
    ¬(3 ≤ (at' 2#4 24#12).stateReg.toNat ∧ (at' 2#4 24#12).stateReg.toNat ≤ 6) ∧
    ¬(3 ≤ (at' 7#4 0#12).stateReg.toNat ∧ (at' 7#4 0#12).stateReg.toNat ≤ 6) := by decide

theorem witness_WakeAndRequestDriveTimes : Started (started []) ∧ 3025 ≤ 3025 :=
  ⟨⟨rfl, rfl, rfl, rfl, rfl, rfl, rfl⟩, Nat.le_refl _⟩

/-- Both clauses at their boundary: 86 low samples, then high; one more low sample with C at 86. -/
theorem witness_WaitPhaseEndsByRunLength :
    let s := { waitAt 3#4 0#12 .low with line := List.replicate 86 (phaseLevel 0) ++ Level.high :: [] }
    let s' := { waitAt 3#4 86#12 .low with line := List.replicate 1 (phaseLevel 0) ++ Level.high :: [] }
    (s.stateReg = phaseState 0 ∧ s.resetLine = false ∧ s.pending = [] ∧ Level.high ≠ phaseLevel 0 ∧
      s.c.toNat ≤ phaseBound 0 + 1 ∧ s.c.toNat + 86 ≤ phaseBound 0 + 1) ∧
    (s.line = List.replicate 86 (phaseLevel 0) ++ Level.high :: [] ∧
      s'.line = List.replicate 1 (phaseLevel 0) ++ Level.high :: []) ∧
    (s'.stateReg = phaseState 0 ∧ s'.resetLine = false ∧ s'.pending = [] ∧ s'.c.toNat ≤ phaseBound 0 + 1 ∧
      phaseBound 0 + 2 ≤ s'.c.toNat + 1) := by decide

theorem witness_FortyPacksBuildTheFrame : (List.replicate 40 true).length = 40 := by decide

/-- A list of at most 82 runs is within its bounds if each of its entries is. -/
theorem runsInBounds_of_all {runs : List Nat} (hl : runs.length ≤ 82)
    (h : ∀ j, j < 82 → (runs[j]?.getD 0 ≤ phaseBound j + 1 ∧ (j = 0 ∨ runs.length ≤ j ∨ 1 ≤ runs[j]?.getD 0))) :
    RunsInBounds runs := by
  intro j r hr
  have hj : j < runs.length := (List.getElem?_eq_some_iff.mp hr).1
  have hb := h j (by omega)
  rw [hr, Option.getD_some] at hb
  exact ⟨hb.1, by omega⟩

theorem shortRuns_inBounds : RunsInBounds shortRuns := runsInBounds_of_all (by decide) (by decide)

theorem longRuns_inBounds : RunsInBounds longRuns := runsInBounds_of_all (by decide) (by decide)

/-- The shortest runs make a frame whose checksum agrees, the longest one whose checksum does not. -/
theorem witness_WholeDecodeFollowsItsRuns :
    let f := frameOfBits (bitsOfRuns shortRuns)
    let g := frameOfBits (bitsOfRuns longRuns)
    (Started (started (samplesFrom 0 shortRuns ++ .low :: [])) ∧ shortRuns.length = 82 ∧ RunsInBounds shortRuns ∧
      (f.b0.toNat + f.b1.toNat + f.b2.toNat + f.b3.toNat) % 256 = f.b4.toNat) ∧
    (Started (started (samplesFrom 0 longRuns ++ .low :: [])) ∧ longRuns.length = 82 ∧ RunsInBounds longRuns ∧
      (g.b0.toNat + g.b1.toNat + g.b2.toNat + g.b3.toNat) % 256 ≠ g.b4.toNat) :=
  ⟨⟨⟨rfl, rfl, rfl, rfl, rfl, rfl, rfl⟩, by decide, shortRuns_inBounds, by decide⟩,
    ⟨⟨rfl, rfl, rfl, rfl, rfl, rfl, rfl⟩, by decide, longRuns_inBounds, by decide⟩⟩

/-- The first phase overrun by one sample too many, and the last. -/
theorem witness_FirstOverrunEndsInTimeout :
    (Started (started (samplesFrom 0 [] ++ List.replicate 87 (phaseLevel 0) ++ [])) ∧ RunsInBounds [] ∧
      phaseBound 0 + 2 ≤ 87) ∧
    (Started (started (samplesFrom 0 (longRuns.take 81) ++ List.replicate 77 (phaseLevel 81) ++ [])) ∧
      RunsInBounds (longRuns.take 81) ∧ (longRuns.take 81).length = 81 ∧ phaseBound 81 + 2 ≤ 77) :=
  ⟨⟨⟨rfl, rfl, rfl, rfl, rfl, rfl, rfl⟩, by intro j r h; simp at h, by decide⟩,
    ⟨⟨rfl, rfl, rfl, rfl, rfl, rfl, rfl⟩, runsInBounds_of_all (by decide) (by decide), by decide, by decide⟩⟩

/-- Claims 1 and 5 with the shortest runs, claim 2 with the longest; claim 3's premises are FirstOverrunEndsInTimeout's. -/
theorem witness_SourcePropertiesHold :
    (Started (started (samplesFrom 0 shortRuns ++ .low :: [])) ∧ FrameReceived Frame.zero shortRuns ∧
      ChecksumAgrees Frame.zero) ∧
    (Started (started (samplesFrom 0 longRuns ++ .low :: [])) ∧
      FrameReceived ⟨0xFF#8, 0xFF#8, 0xFF#8, 0xFF#8, 0xFF#8⟩ longRuns ∧
      ¬ChecksumAgrees ⟨0xFF#8, 0xFF#8, 0xFF#8, 0xFF#8, 0xFF#8⟩) :=
  ⟨⟨⟨rfl, rfl, rfl, rfl, rfl, rfl, rfl⟩, ⟨by decide, shortRuns_inBounds, by decide⟩, by unfold ChecksumAgrees; decide⟩,
    ⟨⟨rfl, rfl, rfl, rfl, rfl, rfl, rfl⟩, ⟨by decide, longRuns_inBounds, by decide⟩, by unfold ChecksumAgrees; decide⟩⟩

theorem witness_TicksLineLetsThatManyTicksElapse : (at' 9#4 0#12).pending = [] := rfl

theorem witness_EveryDecodeEndsWithin8519Ticks :
    Inv lastBit ∧ 1 ≤ lastBit.stateReg.toNat ∧ lastBit.stateReg.toNat ≤ 7 ∧ lastBit.resetLine = false ∧
    lastBit.pending = [] ∧ Inv (started []) ∧ 1 ≤ (started []).stateReg.toNat :=
  ⟨lastBit_inv, by decide, by decide, rfl, rfl,
    by constructor <;> first | decide | exact fun h => absurd h (by decide),
    by decide⟩

theorem witness_NoDecodeEndsBeforeTick3084 : Started (started [.high, .low]) ∧ 3083 < 3084 ∧ 3107 < 3108 :=
  ⟨⟨rfl, rfl, rfl, rfl, rfl, rfl, rfl⟩, by decide, by decide⟩

end Tests
end

section
/-! SUPPORT. What an event leaves pending, and that every step answers; a tick's step when reset is not asserted; and the
steps that `runTicks` stands for. -/

namespace Sys2Proof.Machine

/-! ### What running an event answers -/

/-- Running a code answers a next state, asserted reset or not, and leaves what is pending as it was. -/
theorem runEvent_run_pending (code : Code) (s : State) :
    ∃ t, runEvent (.run code s) = .next t ∧ t.pending = s.pending := by
  obtain ⟨t, ht⟩ := exec_next (decode code) s
  have env := (exec_env ht).pending
  simp only [runEvent, ht, holdReset]
  split
  · exact ⟨t.resetBlock, rfl, env⟩
  · exact ⟨t, rfl, env⟩

/-- Every step answers a next state: nothing faults and nothing is refused (R200). -/
theorem step_next (s : State) : ∃ t, step s = .next t := by
  cases he : nextEvent s with
  | run code u =>
    obtain ⟨t, ht, -⟩ := runEvent_run_pending code u
    exact ⟨t, by rw [step, he, ht]⟩
  | resetInput asserted u => exact ⟨u.driveReset asserted, by rw [step, he, runEvent]⟩

/-- A step with nothing pending leaves nothing pending. -/
theorem step_pending_nil {s : State} (h : s.pending = []) : ∃ t, step s = .next t ∧ t.pending = [] := by
  obtain ⟨l, u, he, hu⟩ := tickEvent_run s
  obtain ⟨t, ht, hp⟩ := runEvent_run_pending (.fsm s.stateReg l) u
  have hnil : u.pending = [] := by rw [hu, h, passTime]
  exact ⟨t, by rw [step_tick (nextEvent_nil h), he, ht], hp.trans hnil⟩

/-! ### A tick's step when reset is not asserted -/

@[simp] theorem drawSample_resetLine (s : State) : (drawSample s).2.resetLine = s.resetLine := by
  rw [drawSample_snd]

theorem waiting_eq_true_iff (s : State) : waiting s = true ↔ 3 ≤ s.stateReg.toNat ∧ s.stateReg.toNat ≤ 6 :=
  decide_eq_true_iff

theorem waiting_eq_false_iff (s : State) : waiting s = false ↔ ¬(3 ≤ s.stateReg.toNat ∧ s.stateReg.toNat ≤ 6) :=
  decide_eq_false_iff_not

/-- With reset not asserted, a tick is the decoded engine step, on the sample it draws and the state that drawing leaves. -/
theorem step_of_tickNext {s u : State} {l : Level} (hr : s.resetLine = false) (ht : TickNext s)
    (hd : drawSample s.beginTick = (l, u)) : step s = exec (decode (.fsm s.stateReg l)) u := by
  have hu : u.resetLine = false := by
    simpa [hd, hr] using drawSample_resetLine s.beginTick
  rw [step_tick (nextEvent_tick ht), tickEvent, hd]
  exact runEvent_run hu

/-- With reset not asserted, a host access due before the tick is the decoded access, its time having passed. -/
theorem step_of_bus {s : State} {d : Nat} {op : BitVec 9} {w : Word} {ps : List Pending} (hr : s.resetLine = false)
    (hp : s.pending = { delay := d, action := .bus op w } :: ps) (hd : d < timeToTick s) :
    step s = exec (decode (.hbus op w)) { s with pending := ps, phase := s.phase + d } := by
  rw [step, nextEvent_bus hp hd]
  exact runEvent_run hr

/-! ### Counting the ticks of a run -/

/-- The ticks of a run's first part and of what follows it add up. -/
theorem ticksIn_add {m : Nat} {s t : State} (n : Nat) (h : runSteps m s = .next t) :
    ticksIn (m + n) s = ticksIn m s + ticksIn n t := by
  induction m generalizing s with
  | zero =>
    cases h
    simp [ticksIn]
  | succ m ih =>
    obtain ⟨u, hu⟩ := step_next s
    have hrun : runSteps m u = .next t := by simpa [runSteps, hu] using h
    rw [Nat.add_right_comm]
    simp only [ticksIn, hu, ih hrun, Nat.add_assoc]

/-- A run that goes on from where another ended. -/
theorem runSteps_add_of_next {m : Nat} {s t : State} (n : Nat) (h : runSteps m s = .next t) :
    runSteps (m + n) s = runSteps n t := by
  rw [runSteps_add, h]

/-- The single step of a run of length one. -/
theorem runSteps_one {s t : State} (h : step s = .next t) : runSteps 1 s = .next t := by
  simp [runSteps, h]

/-- A run to the next tick is some steps that are no ticks and then the tick. -/
theorem runToTick_isRun (s : State) :
    ∃ k t, runToTick s.pending.length s = .next t ∧ runSteps (k + 1) s = .next t ∧ ticksIn (k + 1) s = 1 ∧
      ∀ j, j ≤ k → ticksIn j s = 0 := by
  obtain ⟨k, u, hrun, hnone, htick, hto⟩ := runToTick_spec s.pending.length s le_rfl
  obtain ⟨t, ht⟩ := step_next u
  have hone : ticksIn 1 u = 1 := by simp [ticksIn, htick, ht]
  exact ⟨k, t, hto.trans ht, (runSteps_add_of_next 1 hrun).trans (runSteps_one ht),
    by rw [ticksIn_add 1 hrun, hnone k le_rfl, hone], hnone⟩

/-- `n` ticks are a run that counts `n` ticks and ends at the last of them. -/
theorem runTicks_isRun (n : Nat) (s : State) :
    ∃ k t, runSteps k s = .next t ∧ runTicks n s = .next t ∧ ticksIn k s = n ∧ ∀ j, j < k → ticksIn j s < n := by
  induction n generalizing s with
  | zero => exact ⟨0, s, rfl, rfl, rfl, fun j hj => absurd hj (Nat.not_lt_zero j)⟩
  | succ n ih =>
    obtain ⟨k, u, hto, hrun, hone, hnone⟩ := runToTick_isRun s
    obtain ⟨m, t, hrun', hticks, hcount, hless⟩ := ih u
    refine ⟨k + 1 + m, t, (runSteps_add_of_next m hrun).trans hrun', by simp only [runTicks, hto, hticks],
      by rw [ticksIn_add m hrun, hone, hcount, Nat.add_comm], fun j hj => ?_⟩
    obtain hj' | hj' := Nat.lt_or_ge k j
    · obtain ⟨i, rfl⟩ := Nat.exists_eq_add_of_le (Nat.succ_le_of_lt hj')
      have hi : ticksIn i u < n := hless i (by omega)
      rw [ticksIn_add i hrun, hone]
      omega
    · rw [hnone j hj']
      exact Nat.succ_pos n

/-- With nothing pending, `n` ticks are `n` steps. -/
theorem runTicks_of_pending_nil (n : Nat) {s : State} (h : s.pending = []) : runTicks n s = runSteps n s := by
  induction n generalizing s with
  | zero => rfl
  | succ n ih =>
    obtain ⟨t, ht, hp⟩ := step_pending_nil h
    simp only [runTicks, runSteps, h, List.length_nil, runToTick, ht, ih hp]

@[simp] theorem HostLine.effect_ticks (n gap : Nat) (s : State) : (HostLine.ticks n).effect gap s = runTicks n s := rfl

end Sys2Proof.Machine
end

section
/-! The statements on what one step runs and on the TICKS line. -/

namespace Sys2Proof.Machine

/-- Settles O51: `runTicks` is a run that ends at its n-th tick, by induction on n, each tick being a run to the tick. -/
theorem ticksLineLetsThatManyTicksElapse : Obligations.TicksLineLetsThatManyTicksElapse := by
  intro n gap s
  rw [HostLine.effect_ticks]
  exact ⟨runTicks_isRun n s, runTicks_of_pending_nil n⟩

/-- Settles O3: what is pending decides between the access and the tick, and STATE whether the tick reads the line. -/
theorem stepRunsDecodedInstruction : Obligations.StepRunsDecodedInstruction := by
  intro s hr
  refine ⟨fun d op w ps hp hd => step_of_bus hr hp (Nat.lt_sub_iff_add_lt'.mpr hd), fun ht => ⟨?_, ?_, ?_⟩⟩
  · intro l ls h3 h6 hl
    have hw : waiting s.beginTick = true := (waiting_eq_true_iff s.beginTick).mpr ⟨h3, h6⟩
    exact step_of_tickNext hr ht (drawSample_cons hw hl)
  · intro h3 h6 hl
    have hw : waiting s.beginTick = true := (waiting_eq_true_iff s.beginTick).mpr ⟨h3, h6⟩
    exact step_of_tickNext hr ht (drawSample_nil hw hl)
  · intro l hout
    have hw : waiting s.beginTick = false := (waiting_eq_false_iff s.beginTick).mpr hout
    have hsample : decode (.fsm s.stateReg l) = decode (.fsm s.stateReg .low) := decodeEngine_sample l .low hout
    rw [hsample]
    exact step_of_tickNext hr ht (drawSample_idle hw)

end Sys2Proof.Machine
end

section
/-! SUPPORT. Packing (R156): what Pack does to the position and to the stream bits of the frame (R33). -/

namespace Sys2Proof.Machine

/-! ### One bit of a frame -/

/-- The number of bits packed before a position, which is also the stream bit that it names (R33). -/
def bitPosition (byteIdx bitIdx : BitVec 3) : Nat := 8 * byteIdx.toNat + (7 - bitIdx.toNat)

theorem packedBits_eq (s : State) : packedBits s = bitPosition s.byteIdx s.bitIdx := rfl

theorem setBit_getLsbD (b : Byte) (j : BitVec 3) {i : Nat} (hi : i < 8) :
    (setBit b j).getLsbD i = (b.getLsbD i || i == j.toNat) := by
  simp only [setBit, BitVec.getLsbD_or, BitVec.getLsbD_shiftLeft, BitVec.getLsbD_one]
  grind

/-- Only the byte that BYTEIDX names takes the bit. -/
theorem frameByte_frameSetBit (f : Frame) {byteIdx : BitVec 3} (bitIdx : BitVec 3) (hb : byteIdx.toNat ≤ 4) {n : Nat}
    (hn : n ≤ 4) :
    frameByte (frameSetBit f byteIdx bitIdx) n =
      if n = byteIdx.toNat then setBit (frameByte f n) bitIdx else frameByte f n := by
  have named : ∀ i : BitVec 3, i.toNat ≤ 4 → i = 0#3 ∨ i = 1#3 ∨ i = 2#3 ∨ i = 3#3 ∨ i = 4#3 := by decide
  obtain rfl | rfl | rfl | rfl | rfl := named byteIdx hb <;> interval_cases n <;> rfl

theorem streamBit_frameSetBit (f : Frame) {byteIdx : BitVec 3} (bitIdx : BitVec 3) (hb : byteIdx.toNat ≤ 4) {k : Nat}
    (hk : k < 40) :
    streamBit (frameSetBit f byteIdx bitIdx) k = (streamBit f k || k == bitPosition byteIdx bitIdx) := by
  have hbit : bitIdx.toNat < 8 := bitIdx.isLt
  simp only [streamBit, frameByte_frameSetBit f bitIdx hb (show k / 8 ≤ 4 by omega)]
  by_cases hbyte : k / 8 = byteIdx.toNat
  · have same : (7 - k % 8 == bitIdx.toNat) = (k == bitPosition byteIdx bitIdx) := by
      rw [Bool.eq_iff_iff, beq_iff_eq, beq_iff_eq, bitPosition]
      omega
    rw [if_pos hbyte, setBit_getLsbD _ _ (by omega), same]
  · have other : (k == bitPosition byteIdx bitIdx) = false := by
      rw [beq_eq_false_iff_ne, bitPosition]
      omega
    rw [if_neg hbyte, other, Bool.or_false]

theorem streamBit_zero (k : Nat) : streamBit Frame.zero k = false := by
  have zero : frameByte Frame.zero (k / 8) = 0#8 := by
    unfold frameByte
    split <;> rfl
  rw [streamBit, zero, BitVec.getLsbD_zero]

/-- A frame is its forty stream bits. -/
theorem Frame.eq_of_streamBit {f g : Frame} (h : ∀ k, k < 40 → streamBit f k = streamBit g k) : f = g := by
  have byte : ∀ n, n ≤ 4 → frameByte f n = frameByte g n := by
    intro n hn
    refine BitVec.eq_of_getLsbD_eq fun i hi => ?_
    have hk := h (8 * n + (7 - i)) (by omega)
    rwa [streamBit, streamBit, show (8 * n + (7 - i)) / 8 = n by omega,
      show 7 - (8 * n + (7 - i)) % 8 = i by omega] at hk
  cases f
  cases g
  exact (Frame.mk.injEq ..).mpr
    ⟨byte 0 (by decide), byte 1 (by decide), byte 2 (by decide), byte 3 (by decide), byte 4 (by decide)⟩

/-! ### Pack -/

theorem pack_bitIdx_toNat (f : Frame) (byteIdx bitIdx : BitVec 3) (b : Bool) :
    (pack f byteIdx bitIdx b).bitIdx.toNat = if bitIdx.toNat = 0 then 7 else bitIdx.toNat - 1 := by
  simp only [pack]
  revert bitIdx
  decide

theorem pack_byteIdx_toNat (f : Frame) (byteIdx bitIdx : BitVec 3) (b : Bool) :
    (pack f byteIdx bitIdx b).byteIdx.toNat = (if bitIdx.toNat = 0 then byteIdx.toNat + 1 else byteIdx.toNat) % 8 := by
  simp only [pack]
  revert byteIdx bitIdx
  decide

/-- Pack moves on to the next stream bit. -/
theorem bitPosition_pack (f : Frame) {byteIdx : BitVec 3} (bitIdx : BitVec 3) (b : Bool) (hb : byteIdx.toNat ≤ 4) :
    bitPosition (pack f byteIdx bitIdx b).byteIdx (pack f byteIdx bitIdx b).bitIdx = bitPosition byteIdx bitIdx + 1 := by
  have hbit : bitIdx.toNat < 8 := bitIdx.isLt
  simp only [bitPosition, pack_byteIdx_toNat, pack_bitIdx_toNat]
  split <;> omega

/-- Pack ORs its bit into the stream bit that the position names, and leaves the others. -/
theorem streamBit_pack (f : Frame) {byteIdx : BitVec 3} (bitIdx : BitVec 3) (b : Bool) (hb : byteIdx.toNat ≤ 4) {k : Nat}
    (hk : k < 40) :
    streamBit (pack f byteIdx bitIdx b).f k = (streamBit f k || (b && k == bitPosition byteIdx bitIdx)) := by
  cases b with
  | false => simp [pack]
  | true => simp [pack, streamBit_frameSetBit f bitIdx hb hk]

/-! ### The bit taken at the end of a high phase (R155) -/

/-- What `takeBit` makes of a state: the packed bit, then VALIDATE after the fortieth and BIT_LOW before. -/
theorem takeBit_eq (d : Nat) (s : State) :
    takeBit d s =
      { s with
        stateReg := if (pack s.f s.byteIdx s.bitIdx (classify d)).byteIdx = 5#3 then stValidate else stBitLow
        c := if (pack s.f s.byteIdx s.bitIdx (classify d)).byteIdx = 5#3 then 0#12 else 1#12
        f := (pack s.f s.byteIdx s.bitIdx (classify d)).f
        byteIdx := (pack s.f s.byteIdx s.bitIdx (classify d)).byteIdx
        bitIdx := (pack s.f s.byteIdx s.bitIdx (classify d)).bitIdx } := by
  simp only [takeBit]
  split <;> rfl

theorem classify_of_le {d : Nat} (h : d ≤ 40) : classify d = false := decide_eq_false (Nat.not_lt.mpr h)

theorem classify_of_lt {d : Nat} (h : 40 < d) : classify d = true := decide_eq_true h

end Sys2Proof.Machine
end

section
/-! SUPPORT. What an engine step and a host access leave alone, and what can change STATE, the readings and PIN. -/

namespace Sys2Proof.Machine

/-! ### The two bits of a bus word that act -/

theorem startBit_eq_true_iff (w : Word) : startBit w = true ↔ w.toNat % 2 = 1 := by
  rw [startBit, BitVec.getLsbD, Nat.testBit_zero, decide_eq_true_iff]

theorem pinField_toNat (w : Word) : (pinField w).toNat = w.toNat % 256 := by
  simp [pinField]

theorem busy_eq_false_iff (s : State) : busy s = false ↔ ¬(1 ≤ s.stateReg.toNat ∧ s.stateReg.toNat ≤ 7) :=
  decide_eq_false_iff_not

/-- Everything a host access can do to the block (R69, R80): start a decode, set PIN, or only answer. -/
theorem exec_bus_cases {s t : State} {op : BitVec 9} {w : Word} (h : exec (decode (.hbus op w)) s = .next t) :
    (op = 0x100#9 ∧ startBit w = true ∧ busy s = false ∧ t = s.startDecode) ∨
    (op = 0x114#9 ∧ busy s = false ∧ t = { s with pin := pinField w }) ∨
    t = s.respond t.rdata := by
  obtain ⟨hw, rfl⟩ | ⟨-, rfl⟩ := exec_bus h
  · have hop (a : Addr) (ha : opAddr op = a) : op = makeOp true a := by rw [← ha, ← hw, makeOp_opWrite_opAddr]
    obtain ⟨hm, ha, hs, hb⟩ | ⟨hm, ha, hb⟩ | hm := memWrite_cases s (opAddr op) w
    · exact .inl ⟨hop _ ha, hs, hb, hm⟩
    · exact .inr (.inl ⟨hop _ ha, hb, hm⟩)
    · exact .inr (.inr (by rw [hm]; rfl))
  · exact .inr (.inr rfl)

/-! ### What the phases leave alone -/

theorem drivePhase_frame (ticks : Nat) (after : BitVec 4) (s : State) :
    drivePhase ticks after s =
      { s with stateReg := (drivePhase ticks after s).stateReg, c := (drivePhase ticks after s).c } := by
  obtain ⟨-, h⟩ | ⟨-, h⟩ := drivePhase_cases ticks after s <;> rw [h] <;> rfl

theorem waitPhase_frame (v : Level) (bound : Nat) (after : BitVec 4) (sample : Level) (s : State) :
    waitPhase v bound after sample s =
      { s with
        stateReg := (waitPhase v bound after sample s).stateReg
        c := (waitPhase v bound after sample s).c } := by
  obtain ⟨-, h⟩ | ⟨-, -, h⟩ | ⟨-, -, h⟩ := waitPhase_cases v bound after sample s <;> rw [h] <;> rfl

/-- An engine step writes the readings only in VALIDATE, on a matching checksum (R36, R160). -/
theorem exec_engine_readings {s t : State} {l : Level} (h : exec (decode (.fsm s.stateReg l)) s = .next t) :
    (t.hum = s.hum ∧ t.temp = s.temp) ∨
    (s.stateReg = stValidate ∧ t.stateReg = stSuccess ∧ checksumOk s.f = true ∧ t.hum = humidity s.f ∧
      t.temp = temperature s.f) := by
  obtain ⟨-, rfl⟩ | ⟨-, rfl⟩ | ⟨-, rfl⟩ | ⟨-, rfl⟩ | ⟨-, rfl⟩ | ⟨-, rfl⟩ | ⟨-, -, rfl⟩ | ⟨-, -, -, rfl⟩ | ⟨-, -, -, rfl⟩ |
    ⟨hs, hf, rfl⟩ | ⟨-, -, rfl⟩ | ⟨-, rfl⟩ := exec_engine h
  · exact .inl ⟨rfl, rfl⟩
  iterate 2
    rw [drivePhase_frame]
    exact .inl ⟨rfl, rfl⟩
  iterate 3
    rw [waitPhase_frame]
    exact .inl ⟨rfl, rfl⟩
  · rw [takeBit_eq]
    exact .inl ⟨rfl, rfl⟩
  iterate 2 exact .inl ⟨rfl, rfl⟩
  · exact .inr ⟨hs, rfl, hf, rfl, rfl⟩
  iterate 2 exact .inl ⟨rfl, rfl⟩

/-- No engine step touches PIN, the time base or RDATA (R37, R46, R80). -/
theorem exec_engine_frame {s t : State} {l : Level} (h : exec (decode (.fsm s.stateReg l)) s = .next t) :
    t.pin = s.pin ∧ t.phase = s.phase ∧ t.tickNo = s.tickNo ∧ t.rdata = s.rdata := by
  obtain ⟨-, rfl⟩ | ⟨-, rfl⟩ | ⟨-, rfl⟩ | ⟨-, rfl⟩ | ⟨-, rfl⟩ | ⟨-, rfl⟩ | ⟨-, -, rfl⟩ | ⟨-, -, -, rfl⟩ | ⟨-, -, -, rfl⟩ |
    ⟨-, -, rfl⟩ | ⟨-, -, rfl⟩ | ⟨-, rfl⟩ := exec_engine h
  · exact ⟨rfl, rfl, rfl, rfl⟩
  iterate 2
    rw [drivePhase_frame]
    exact ⟨rfl, rfl, rfl, rfl⟩
  iterate 3
    rw [waitPhase_frame]
    exact ⟨rfl, rfl, rfl, rfl⟩
  · rw [takeBit_eq]
    exact ⟨rfl, rfl, rfl, rfl⟩
  iterate 5 exact ⟨rfl, rfl, rfl, rfl⟩

/-! ### The pad (R45) -/

theorem pad_wakeLow {s : State} (h : s.stateReg = stWakeLow) : padOe s = true ∧ padOut s = false := by
  rw [padOe, padOut, h]
  exact ⟨rfl, rfl⟩

theorem pad_reqHigh {s : State} (h : s.stateReg = stReqHigh) : padOe s = true ∧ padOut s = true := by
  rw [padOe, padOut, h]
  exact ⟨rfl, rfl⟩

/-! ### A tick -/

/-- The registers of the state that a tick's code runs in are those before the tick. -/
theorem TickState.registers {s u : State} (h : TickState s u) :
    u.stateReg = s.stateReg ∧ u.f = s.f ∧ u.hum = s.hum ∧ u.temp = s.temp ∧ u.pin = s.pin := by
  rw [h]
  exact ⟨rfl, rfl, rfl, rfl, rfl⟩

/-- A tick restarts the phase, takes the next number, and brings what is pending nearer (R14, R46). -/
theorem step_tick_timeBase {s : State} (hr : s.resetLine = false) (htick : TickNext s) :
    ∃ t, step s = .next t ∧ t.phase = 0 ∧ t.tickNo = s.tickNo + 1 ∧ t.pending = passTime (timeToTick s) s.pending := by
  obtain ⟨l, u, he, hu⟩ := tickEvent_run s
  have hur : u.resetLine = false := by rw [hu]; exact hr
  obtain ⟨t, ht⟩ := exec_next (decode (.fsm s.stateReg l)) u
  have hstep : step s = .next t := by rw [step_tick (nextEvent_tick htick), he, runEvent_run hur, ht]
  rw [← hu.registers.1] at ht
  obtain ⟨-, hphase, hno, -⟩ := exec_engine_frame ht
  refine ⟨t, hstep, hphase.trans ?_, hno.trans ?_, (exec_env ht).pending.trans ?_⟩ <;> rw [hu]

/-! ### Where an engine step can lead (R171) -/

/-- A drive phase stays or goes on to the STATE after it. -/
theorem drivePhase_transition {after : BitVec 4} {s : State} (ticks : Nat) (hafter : engineTransition s.stateReg after) :
    (drivePhase ticks after s).stateReg = s.stateReg ∨
    engineTransition s.stateReg (drivePhase ticks after s).stateReg := by
  obtain ⟨-, h⟩ | ⟨-, h⟩ := drivePhase_cases ticks after s <;> rw [h]
  · exact .inr hafter
  · exact .inl rfl

/-- A wait phase stays, goes on to the STATE after it or times out. -/
theorem waitPhase_transition {after : BitVec 4} {s : State} (v : Level) (bound : Nat) (sample : Level)
    (hafter : engineTransition s.stateReg after) (htimeout : engineTransition s.stateReg stTimeoutErr) :
    (waitPhase v bound after sample s).stateReg = s.stateReg ∨
    engineTransition s.stateReg (waitPhase v bound after sample s).stateReg := by
  obtain ⟨-, h⟩ | ⟨-, -, h⟩ | ⟨-, -, h⟩ := waitPhase_cases v bound after sample s <;> rw [h]
  · exact .inr hafter
  · exact .inr htimeout
  · exact .inl rfl

theorem takeBit_stateReg (d : Nat) (s : State) :
    (takeBit d s).stateReg = stValidate ∨ (takeBit d s).stateReg = stBitLow := by
  rw [takeBit_eq]
  exact ite_eq_or_eq ..

/-- An engine step stays in its STATE or takes a row of the transition table. -/
theorem exec_engine_transition {s t : State} {l : Level} (h : exec (decode (.fsm s.stateReg l)) s = .next t) :
    t.stateReg = s.stateReg ∨ engineTransition s.stateReg t.stateReg := by
  obtain ⟨-, rfl⟩ | ⟨hs, rfl⟩ | ⟨hs, rfl⟩ | ⟨hs, rfl⟩ | ⟨hs, rfl⟩ | ⟨hs, rfl⟩ | ⟨hs, -, rfl⟩ | ⟨hs, -, -, rfl⟩ |
    ⟨-, -, -, rfl⟩ | ⟨hs, -, rfl⟩ | ⟨hs, -, rfl⟩ | ⟨hs, rfl⟩ := exec_engine h
  · exact .inl rfl
  iterate 2 exact drivePhase_transition _ (by simp [hs, engineTransition])
  iterate 3 exact waitPhase_transition _ _ _ (by simp [hs, engineTransition]) (by simp [hs, engineTransition])
  · obtain ht | ht := takeBit_stateReg s.c.toNat s <;> simp [ht, hs, engineTransition]
  · simp [hs, engineTransition]
  · exact .inl rfl
  · simp [hs, engineTransition]
  · simp [hs, engineTransition]
  · simp [hs, engineTransition]

end Sys2Proof.Machine
end

section
/-! SUPPORT. Many packs: the frame that a list of bits builds (R33, R67, R156). -/

namespace Sys2Proof.Machine

/-! ### Bytes and frames of bits, most significant first -/

/-- Bit `i` of a number read from bits most significant first is the `i`-th from the end. -/
theorem testBit_foldl_bits (bits : List Bool) (i : Nat) :
    (bits.foldl (fun n (b : Bool) => 2 * n + b.toNat) 0).testBit i = bits.reverse.getD i false := by
  induction bits using List.reverseRecOn generalizing i with
  | nil => simp
  | append_singleton bits b ih =>
    rw [List.foldl_append, List.foldl_cons, List.foldl_nil, List.reverse_append, List.reverse_singleton,
      List.singleton_append, ← Nat.bit_val]
    cases i with
    | zero => rw [Nat.testBit_bit_zero, List.getD_cons_zero]
    | succ i => rw [Nat.testBit_bit_succ, ih, List.getD_cons_succ]

/-- The bits of a byte built from eight of the bits of a list (R67). -/
theorem byteOfBits_getLsbD {bits : List Bool} {m i : Nat} (hm : m + 8 ≤ bits.length) (hi : i < 8) :
    (byteOfBits ((bits.drop m).take 8)).getLsbD (7 - i) = bits.getD (m + i) false := by
  have hlen : ((bits.drop m).take 8).length = 8 := by
    rw [List.length_take, List.length_drop]
    omega
  have hlast : 7 - i < ((bits.drop m).take 8).length := by omega
  have hin : decide (7 - i < 8) = true := decide_eq_true (by omega)
  rw [byteOfBits, BitVec.getLsbD_ofNat, testBit_foldl_bits, hin, Bool.true_and, List.getD_eq_getElem?_getD,
    List.getElem?_reverse hlast, hlen, show 8 - 1 - (7 - i) = i by omega, List.getElem?_take_of_lt hi, List.getElem?_drop,
    List.getD_eq_getElem?_getD]

/-- Stream bit `k` of the frame that forty bits make is bit `k` (R33). -/
theorem streamBit_frameOfBits {bits : List Bool} (hlen : bits.length = 40) {k : Nat} (hk : k < 40) :
    streamBit (frameOfBits bits) k = bits.getD k false := by
  have hbyte : frameByte (frameOfBits bits) (k / 8) = byteOfBits ((bits.drop (8 * (k / 8))).take 8) := by
    have hn : k / 8 < 5 := by omega
    generalize k / 8 = n at hn ⊢
    interval_cases n <;> rfl
  rw [streamBit, hbyte, byteOfBits_getLsbD (by omega) (by omega), Nat.div_add_mod]

/-! ### Packing a list of bits -/

/-- Pack the bits in order, from the cleared frame at (0, 7) that START leaves (R101). -/
def packAll (bits : List Bool) : Packed :=
  bits.foldl (fun p b => pack p.f p.byteIdx p.bitIdx b) ⟨Frame.zero, 0#3, 7#3⟩

theorem packAll_append_singleton (bits : List Bool) (b : Bool) :
    packAll (bits ++ [b]) = pack (packAll bits).f (packAll bits).byteIdx (packAll bits).bitIdx b := by
  rw [packAll, List.foldl_append]
  rfl

/-- Up to forty packs leave the position at the number of bits, and each bit as the stream bit of its number (R33). -/
theorem packAll_spec (bits : List Bool) (hlen : bits.length ≤ 40) :
    bitPosition (packAll bits).byteIdx (packAll bits).bitIdx = bits.length ∧
    ∀ k, k < 40 → streamBit (packAll bits).f k = bits.getD k false := by
  induction bits using List.reverseRecOn with
  | nil => exact ⟨rfl, fun k _ => by rw [List.getD_nil]; exact streamBit_zero k⟩
  | append_singleton bits b ih =>
    rw [List.length_append, List.length_singleton] at hlen ⊢
    obtain ⟨hpos, hbits⟩ := ih (by omega)
    have hbyte : (packAll bits).byteIdx.toNat ≤ 4 := by
      rw [bitPosition] at hpos
      omega
    rw [packAll_append_singleton]
    refine ⟨by rw [bitPosition_pack _ _ _ hbyte, hpos], fun k hk => ?_⟩
    rw [streamBit_pack _ _ _ hbyte hk, hbits k hk, hpos]
    obtain hlt | rfl | hgt := Nat.lt_trichotomy k bits.length
    · rw [List.getD_append _ _ _ _ hlt, beq_eq_false_iff_ne.mpr hlt.ne, Bool.and_false, Bool.or_false]
    · rw [List.getD_append_right _ _ _ _ le_rfl, List.getD_eq_default _ _ le_rfl, beq_self_eq_true, Bool.and_true,
        Bool.false_or, Nat.sub_self, List.getD_cons_zero]
    · rw [List.getD_eq_default _ _ hgt.le, beq_eq_false_iff_ne.mpr hgt.ne', Bool.and_false, Bool.or_false,
        List.getD_eq_default _ _ (by rw [List.length_append, List.length_singleton]; exact hgt)]

/-- Forty packed bits fill the frame (R30, R67). -/
theorem packAll_full {bits : List Bool} (hlen : bits.length = 40) :
    (packAll bits).f = frameOfBits bits ∧ (packAll bits).byteIdx.toNat = 5 ∧ (packAll bits).bitIdx.toNat = 7 := by
  obtain ⟨hpos, hbits⟩ := packAll_spec bits hlen.le
  have hbit : (packAll bits).bitIdx.toNat < 8 := (packAll bits).bitIdx.isLt
  rw [hlen, bitPosition] at hpos
  exact ⟨Frame.eq_of_streamBit fun k hk => by rw [hbits k hk, streamBit_frameOfBits hlen hk], by omega, by omega⟩

end Sys2Proof.Machine
end

section
/-! SUPPORT. The invariant: what it asks of C, of the frame and of the position in each STATE, and the rules for changing
its state, one per kind of update. -/

namespace Sys2Proof.Machine

/-! ### The count and the frame of a STATE -/

/-- The largest count that the invariant lets C have in a STATE (R27, R133, R150, R151). -/
def countLimit (code : BitVec 4) : Nat :=
  if code = stReqHigh then 24
  else if code = stAckLow ∨ code = stAckHigh then 86
  else if code = stBitLow then 57
  else if code = stBitHigh then 76
  else 2999

theorem countLimit_le (code : BitVec 4) : countLimit code ≤ 2999 := by
  revert code
  decide

theorem countLimit_terminal (o : Terminal) : countLimit o.code = 2999 := by
  cases o <;> rfl

/-- What the invariant asks of the frame and the position in a STATE (R32, R33, R101, R156). -/
structure FrameFor (code : BitVec 4) (f : Frame) (byteIdx bitIdx : BitVec 3) : Prop where
  range : byteIdx.toNat ≤ 5
  fresh : 1 ≤ code.toNat → code.toNat ≤ 4 → f = Frame.zero ∧ byteIdx.toNat = 0 ∧ bitIdx.toNat = 7
  loop : code = stBitLow ∨ code = stBitHigh →
    byteIdx.toNat ≤ 4 ∧ ∀ k, k < 40 → bitPosition byteIdx bitIdx ≤ k → streamBit f k = false
  validate : code = stValidate → byteIdx.toNat = 5 ∧ bitIdx.toNat = 7

theorem Inv.frameFor {s : State} (h : Inv s) : FrameFor s.stateReg s.f s.byteIdx s.bitIdx :=
  ⟨h.byteIdx, h.fresh, h.loop, h.validate⟩

/-- The frame and the position that START leaves suit every STATE but VALIDATE. -/
theorem FrameFor.fresh_of_ne {code : BitVec 4} (h : code ≠ stValidate) : FrameFor code Frame.zero 0#3 7#3 where
  range := by decide
  fresh _ _ := ⟨rfl, rfl, rfl⟩
  loop _ := ⟨by decide, fun k _ _ => streamBit_zero k⟩
  validate e := absurd e h

/-- C is within its STATE's limit. -/
theorem Inv.c_le {s : State} (h : Inv s) : s.c.toNat ≤ countLimit s.stateReg := by
  unfold countLimit
  split
  · exact Nat.le_of_lt_succ (h.reqHigh ‹_›)
  · split
    case isTrue e => exact e.elim h.ackLow fun e => (h.ackHigh e).2
    case isFalse =>
      split
      · exact (h.bitLow ‹_›).2
      · split
        · exact (h.bitHigh ‹_›).2
        · exact Nat.le_of_lt_succ h.counter

/-- The frame and the position of a STATE before the bit loop are as START left them. -/
theorem Inv.fresh_eq {s : State} (h : Inv s) (h1 : 1 ≤ s.stateReg.toNat) (h4 : s.stateReg.toNat ≤ 4) :
    s.f = Frame.zero ∧ s.byteIdx = 0#3 ∧ s.bitIdx = 7#3 := by
  obtain ⟨hf, hbyte, hbit⟩ := h.fresh h1 h4
  exact ⟨hf, BitVec.eq_of_toNat_eq hbyte, BitVec.eq_of_toNat_eq hbit⟩

/-- A terminal STATE asks no more of the frame than BYTEIDX at most 5. -/
theorem FrameFor.terminal {f : Frame} {byteIdx bitIdx : BitVec 3} (h : byteIdx.toNat ≤ 5) (o : Terminal) :
    FrameFor o.code f byteIdx bitIdx := by
  cases o <;> exact ⟨h, by simp, by simp, by simp⟩

/-- One more packed bit suits the STATE that follows it (R155, R156). -/
theorem FrameFor.afterPack {f : Frame} {byteIdx bitIdx : BitVec 3} (h : FrameFor stBitHigh f byteIdx bitIdx) (b : Bool) :
    FrameFor (if (pack f byteIdx bitIdx b).byteIdx = 5#3 then stValidate else stBitLow) (pack f byteIdx bitIdx b).f
      (pack f byteIdx bitIdx b).byteIdx (pack f byteIdx bitIdx b).bitIdx := by
  obtain ⟨hbyte, hzero⟩ := h.loop (.inr rfl)
  have hnext := pack_byteIdx_toNat f byteIdx bitIdx b
  split
  case isTrue hfull =>
    have hwrap : bitIdx.toNat = 0 := by
      by_contra hne
      rw [hfull, if_neg hne] at hnext
      change 5 = _ at hnext
      omega
    have hbit : (pack f byteIdx bitIdx b).bitIdx.toNat = 7 := by rw [pack_bitIdx_toNat, if_pos hwrap]
    exact ⟨by rw [hfull]; decide, by simp, by simp, fun _ => ⟨by rw [hfull]; rfl, hbit⟩⟩
  case isFalse hmore =>
    have hle : (pack f byteIdx bitIdx b).byteIdx.toNat ≤ 4 := by
      have hne : (pack f byteIdx bitIdx b).byteIdx.toNat ≠ 5 := fun e => hmore (BitVec.eq_of_toNat_eq e)
      split at hnext <;> omega
    refine ⟨by omega, by simp, fun _ => ⟨hle, fun k hk hpos => ?_⟩, by simp⟩
    rw [bitPosition_pack f bitIdx b hbyte] at hpos
    have hother : (k == bitPosition byteIdx bitIdx) = false := by
      rw [beq_eq_false_iff_ne]
      omega
    rw [streamBit_pack f bitIdx b hbyte hk, hzero k hk (by omega), hother, Bool.and_false, Bool.or_false]

/-! ### The rules -/

/-- The invariant does not speak of the tick number, the environment or RDATA, and of the phase only its range. -/
theorem Inv.withEnv {s : State} (h : Inv s) {phase : Nat} (hphase : phase ≤ Config.tickNs) (tickNo : Nat)
    (pending : List Pending) (line : List Level) (draws : Nat) (rdata : Word) :
    Inv { s with
      phase := phase, tickNo := tickNo, pending := pending, line := line, draws := draws, rdata := rdata } :=
  { h with phase := hphase }

/-- A state with the reset values meets the invariant, whatever the reset input is. -/
theorem Inv.resetBlock (s : State) (level : Bool) : Inv { s.resetBlock with resetLine := level } := by
  constructor <;> simp [AtReset, Frame.zero]

/-- A new PIN. -/
theorem Inv.withPin {s : State} (h : Inv s) (hr : s.resetLine = false) (pin : Byte) : Inv { s with pin := pin } :=
  { h with reset := fun e => by simp [hr] at e }

/-- New readings with TEMP in range. -/
theorem Inv.withReadings {s : State} (h : Inv s) (hr : s.resetLine = false) (hum : Half) {temp : Half}
    (htemp : temp.toNat ≠ 0x8000) : Inv { s with hum := hum, temp := temp } :=
  { h with temp := htemp, reset := fun e => by simp [hr] at e }

/-- A new STATE with a count, a frame and a position that suit it. -/
theorem Inv.enter {s : State} (h : Inv s) (hr : s.resetLine = false) {code : BitVec 4} {v : BitVec 12} {f : Frame}
    {byteIdx bitIdx : BitVec 3} (hcode : code.toNat ≤ 10) (hle : v.toNat ≤ countLimit code)
    (hpos : 4 ≤ code.toNat → code.toNat ≤ 6 → 1 ≤ v.toNat) (hf : FrameFor code f byteIdx bitIdx) :
    Inv { s with stateReg := code, c := v, f := f, byteIdx := byteIdx, bitIdx := bitIdx } where
  code := hcode
  counter := Nat.lt_succ_of_le (hle.trans (countLimit_le code))
  reqHigh := by rintro rfl; exact Nat.lt_succ_of_le hle
  ackLow := by rintro rfl; exact hle
  ackHigh := by rintro rfl; exact ⟨hpos (by decide) (by decide), hle⟩
  bitLow := by rintro rfl; exact ⟨hpos (by decide) (by decide), hle⟩
  bitHigh := by rintro rfl; exact ⟨hpos (by decide) (by decide), hle⟩
  byteIdx := hf.range
  fresh := hf.fresh
  loop := hf.loop
  validate := hf.validate
  temp := h.temp
  phase := h.phase
  reset e := by simp [hr] at e

/-- One count more within a phase. -/
theorem Inv.count {s : State} (h : Inv s) (hr : s.resetLine = false) (hc : s.c.toNat < countLimit s.stateReg) :
    Inv (s.setC (s.c + 1#12)) := by
  have hlimit := countLimit_le s.stateReg
  have hv : (s.c + 1#12).toNat = s.c.toNat + 1 := by
    rw [BitVec.toNat_add, BitVec.toNat_ofNat]
    omega
  exact h.enter hr h.code (by omega) (fun _ _ => by omega) h.frameFor

/-- A terminal STATE (R206). -/
theorem Inv.finish {s : State} (h : Inv s) (hr : s.resetLine = false) (o : Terminal) : Inv (s.finish o) :=
  h.enter hr (by cases o <;> decide) (by rw [countLimit_terminal]; exact Nat.le_of_lt_succ h.counter)
    (fun _ h6 => by cases o <;> exact absurd h6 (by decide)) (.terminal h.byteIdx o)

/-- An accepted START (R101). -/
theorem Inv.startDecode {s : State} (h : Inv s) (hr : s.resetLine = false) : Inv s.startDecode :=
  (h.enter hr (code := stWakeLow) (v := 0#12) (by decide) (by decide) (by decide) (.fresh_of_ne (by decide))).withEnv
    (Nat.zero_le _) 0 s.pending s.line s.draws s.rdata

/-- A STATE that follows one before the bit loop: the frame and the position are as START left them. -/
theorem Inv.enterFresh {s : State} (h : Inv s) (hr : s.resetLine = false) (h1 : 1 ≤ s.stateReg.toNat)
    (h4 : s.stateReg.toNat ≤ 4) {code : BitVec 4} {v : BitVec 12} (hcode : code.toNat ≤ 6)
    (hle : v.toNat ≤ countLimit code) (hpos : 4 ≤ code.toNat → 1 ≤ v.toNat) : Inv ((s.goto code).setC v) := by
  obtain ⟨hf, hbyte, hbit⟩ := h.fresh_eq h1 h4
  have hne : code ≠ stValidate := by
    rintro rfl
    exact absurd hcode (by decide)
  have hframe : FrameFor code s.f s.byteIdx s.bitIdx := by
    rw [hf, hbyte, hbit]
    exact .fresh_of_ne hne
  exact h.enter (code := code) hr (by omega) hle (fun hc _ => hpos hc) hframe

/-! ### The engine steps -/

/-- A tick of a drive phase whose last count is the limit of its STATE. -/
theorem Inv.afterDrivePhase {s : State} {ticks : Nat} {after : BitVec 4} (h : Inv s) (hr : s.resetLine = false)
    (hticks : countLimit s.stateReg + 1 = ticks) (hafter : Inv ((s.goto after).setC 0#12)) :
    Inv (drivePhase ticks after s) := by
  obtain ⟨-, e⟩ | ⟨hmore, e⟩ := drivePhase_cases ticks after s <;> rw [e]
  · exact hafter
  · have hc := h.c_le
    exact h.count hr (by omega)

/-- A tick of a wait phase whose bound is one below the limit of its STATE (R133). -/
theorem Inv.afterWaitPhase {s : State} {v sample : Level} {bound : Nat} {after : BitVec 4} (h : Inv s)
    (hr : s.resetLine = false) (hbound : countLimit s.stateReg = bound + 1) (hafter : Inv ((s.goto after).setC 1#12)) :
    Inv (waitPhase v bound after sample s) := by
  obtain ⟨-, e⟩ | ⟨-, -, e⟩ | ⟨-, hc, e⟩ := waitPhase_cases v bound after sample s <;> rw [e]
  · exact hafter
  · exact h.finish hr .timeoutErr
  · exact h.count hr (by omega)

/-- The end of a bit's high phase. -/
theorem Inv.afterTakeBit {s : State} (h : Inv s) (hr : s.resetLine = false) (hs : s.stateReg = stBitHigh) (d : Nat) :
    Inv (takeBit d s) := by
  have hf := (hs ▸ h.frameFor).afterPack (classify d)
  rw [takeBit_eq]
  refine h.enter hr ?_ ?_ ?_ hf <;> split <;> decide

/-- TEMP is never 0x8000: a magnitude has 15 bits, and a negative zero is 0 (R35, R163). -/
theorem temperature_toNat_ne (f : Frame) : (temperature f).toNat ≠ 0x8000 := by
  have hmag : (temperatureMagnitude f).toNat < 0x8000 := by
    rw [temperatureMagnitude, BitVec.toNat_setWidth]
    exact (Nat.mod_le _ _).trans_lt (BitVec.isLt _)
  unfold temperature
  split
  · rw [BitVec.toNat_ofNat]
    omega
  · omega

/-- Every engine step keeps the invariant (R150–R170). -/
theorem Inv.afterEngineStep {s t : State} {l : Level} (h : Inv s) (hr : s.resetLine = false)
    (he : exec (decode (.fsm s.stateReg l)) s = .next t) : Inv t := by
  obtain ⟨-, rfl⟩ | ⟨hs, rfl⟩ | ⟨hs, rfl⟩ | ⟨hs, rfl⟩ | ⟨hs, rfl⟩ | ⟨hs, rfl⟩ | ⟨hs, -, rfl⟩ | ⟨-, -, -, rfl⟩ |
    ⟨hs, -, hc, rfl⟩ | ⟨-, -, rfl⟩ | ⟨-, -, rfl⟩ | ⟨hs, -⟩ := exec_engine he
  · exact h
  · exact h.afterDrivePhase hr (by rw [hs]; rfl)
      (h.enterFresh hr (by simp [hs]) (by simp [hs]) (by decide) (by decide) (by decide))
  · exact h.afterDrivePhase hr (by rw [hs]; rfl)
      (h.enterFresh hr (by simp [hs]) (by simp [hs]) (by decide) (by decide) (by decide))
  · exact h.afterWaitPhase hr (by rw [hs]; rfl)
      (h.enterFresh hr (by simp [hs]) (by simp [hs]) (by decide) (by decide) (by decide))
  · exact h.afterWaitPhase hr (by rw [hs]; rfl)
      (h.enterFresh hr (by simp [hs]) (by simp [hs]) (by decide) (by decide) (by decide))
  · obtain ⟨hbyte, hzero⟩ := h.loop (.inl hs)
    have hf : FrameFor stBitHigh s.f s.byteIdx s.bitIdx := ⟨h.byteIdx, by simp, fun _ => ⟨hbyte, hzero⟩, by simp⟩
    exact h.afterWaitPhase hr (by rw [hs]; rfl)
      (h.enter (code := stBitHigh) hr (by decide) (by decide) (by decide) hf)
  · exact h.afterTakeBit hr hs s.c.toNat
  · exact h.finish hr .timeoutErr
  · exact h.count hr (by rw [hs]; exact Nat.lt_succ_of_le hc)
  · exact (h.withReadings hr (humidity s.f) (temperature_toNat_ne s.f)).finish hr .success
  · exact h.finish hr .checksumErr
  · exact absurd h.code (by omega)

/-! ### Host accesses -/

/-- Every host access keeps the invariant. -/
theorem Inv.afterHostAccess {s t : State} {op : BitVec 9} {w : Word} (h : Inv s) (hr : s.resetLine = false)
    (he : exec (decode (.hbus op w)) s = .next t) : Inv t := by
  obtain ⟨-, -, -, rfl⟩ | ⟨-, -, rfl⟩ | ht := exec_bus_cases he
  · exact h.startDecode hr
  · exact h.withPin hr (pinField w)
  · rw [ht]
    exact h.withEnv h.phase s.tickNo s.pending s.line s.draws t.rdata

/-! ### Every step -/

/-- Every step keeps the invariant: the inversion of `step`, with one rule for each of its four cases. -/
theorem Inv.afterStep {s t : State} (h : Inv s) (hstep : step s = .next t) : Inv t := by
  have hphase : s.phase ≤ Config.tickNs := h.phase
  obtain ⟨-, u, hu⟩ | ⟨hr, -, l, u, hu, he⟩ | ⟨hr, op, w, ps, d, ⟨d', ps', hp', hd'⟩, hp, he⟩ | ⟨-, ps, d, hd, rfl⟩ :=
    step_cases hstep
  · rw [hu]
    exact Inv.resetBlock u t.resetLine
  · have hinv : Inv u := by
      rw [hu]
      exact h.withEnv (Nat.zero_le _) _ _ _ _ s.rdata
    have hcode : u.stateReg = s.stateReg := by rw [hu]
    exact hinv.afterEngineStep (by rw [hu]; exact hr) (hcode ▸ he)
  · have hd : d < Config.tickNs - s.phase := by
      rw [hp] at hp'
      cases hp'
      exact hd'
    have hinv := h.withEnv (phase := s.phase + d) (by omega) s.tickNo ps s.line s.draws s.rdata
    exact hinv.afterHostAccess hr he
  · have hle : d ≤ Config.tickNs - s.phase := hd
    exact h.withEnv (by omega) s.tickNo ps s.line s.draws s.rdata

end Sys2Proof.Machine
end

section
/-! SUPPORT. What the checksum and HUM are in numbers, what a host access depends on, and where it falls after a restart of
the time base. -/

namespace Sys2Proof.Machine

/-! ### The checksum and the humidity in numbers -/

/-- `ChecksumOK` in numbers (R161): the 10-bit sum of four bytes does not wrap. -/
theorem checksumOk_eq_true_iff (f : Frame) :
    checksumOk f = true ↔ (f.b0.toNat + f.b1.toNat + f.b2.toNat + f.b3.toNat) % 256 = f.b4.toNat := by
  have h0 := f.b0.isLt
  have h1 := f.b1.isLt
  have h2 := f.b2.isLt
  have h3 := f.b3.isLt
  simp only [checksumOk, beq_iff_eq, ← BitVec.toNat_inj, BitVec.extractLsb'_toNat, frameSum, BitVec.toNat_add,
    BitVec.toNat_setWidth, Nat.shiftRight_zero]
  omega

theorem humidity_toNat (f : Frame) : (humidity f).toNat = f.b0.toNat * 256 + f.b1.toNat := by
  rw [humidity, BitVec.toNat_append, ← Nat.shiftLeft_add_eq_or_of_lt f.b1.isLt, Nat.shiftLeft_eq]

/-! ### What a host access depends on -/

/-- What a register read answers depends on STATE, HUM, TEMP and PIN alone (R47, R84–R89). -/
theorem memRead_congr {s s' : State} (hstate : s.stateReg = s'.stateReg) (hhum : s.hum = s'.hum)
    (htemp : s.temp = s'.temp) (hpin : s.pin = s'.pin) (addr : Addr) : memRead s addr = memRead s' addr := by
  simp only [memRead, ctrlWord, statusWord_congr hstate, humidityWord, hhum, temperatureWord, htemp, readingWord, pinWord,
    hpin, unmappedWord]

/-- What a register write makes of the four fields and RDATA depends on these alone (R47, R101, R111). -/
theorem memWrite_congr {s s' : State} (hstate : s.stateReg = s'.stateReg) (hhum : s.hum = s'.hum)
    (htemp : s.temp = s'.temp) (hpin : s.pin = s'.pin) (hrdata : s.rdata = s'.rdata) (addr : Addr) (w : Word) :
    (memWrite s addr w).rdata = (memWrite s' addr w).rdata ∧ (memWrite s addr w).stateReg = (memWrite s' addr w).stateReg ∧
    (memWrite s addr w).hum = (memWrite s' addr w).hum ∧ (memWrite s addr w).temp = (memWrite s' addr w).temp ∧
    (memWrite s addr w).pin = (memWrite s' addr w).pin := by
  have hbusy : busy s = busy s' := by rw [busy, busy, hstate]
  simp only [memWrite, State.writeCtrl, State.writePin, hbusy]
  split
  · split
    · exact ⟨hrdata, rfl, hhum, htemp, hpin⟩
    · exact ⟨hrdata, hstate, hhum, htemp, hpin⟩
  · split
    · split
      · exact ⟨hrdata, hstate, hhum, htemp, hpin⟩
      · exact ⟨hrdata, hstate, hhum, htemp, rfl⟩
    · exact ⟨hrdata, hstate, hhum, htemp, hpin⟩

/-! ### START and the time base -/

/-- An accepted START, as the code of its access runs it (R101). -/
theorem exec_start {s : State} {w : Word} (hidle : busy s = false) (hw : startBit w = true) :
    exec (decode (.hbus 0x100#9 w)) s = .next s.startDecode := by
  change Host.Outcome.next (s.writeCtrl w) = _
  rw [State.writeCtrl, hw, hidle]
  rfl

/-- A host access leaves the tick number at 0. -/
theorem exec_bus_tickNo {s t : State} {op : BitVec 9} {w : Word} (h : exec (decode (.hbus op w)) s = .next t)
    (hs : s.tickNo = 0) : t.tickNo = 0 := by
  obtain ⟨-, -, -, rfl⟩ | ⟨-, -, rfl⟩ | ht := exec_bus_cases h
  · rfl
  · exact hs
  · rw [ht]
    exact hs

/-- Where the first access after a restart of the time base falls: before tick 1 or, due a tick later or more, after it. -/
theorem step_after_restart {s : State} {d : Nat} {op : BitVec 9} {w : Word} {ps : List Pending} (hr : s.resetLine = false)
    (hphase : s.phase = 0) (hno : s.tickNo = 0) (hp : s.pending = { delay := d, action := .bus op w } :: ps) :
    ∃ u, step s = .next u ∧ (d < 1000 → u.tickNo = 0 ∧ u.pending = ps) ∧
      (1000 ≤ d → u.tickNo = 1 ∧ u.pending = { delay := d - 1000, action := .bus op w } :: ps) := by
  have htime : timeToTick s = 1000 := by rw [timeToTick, hphase, Nat.sub_zero]
  obtain hbefore | hafter := Nat.lt_or_ge d 1000
  · obtain ⟨u, hu⟩ := exec_next (decode (.hbus op w)) { s with pending := ps, phase := s.phase + d }
    have hstep : step s = .next u := (step_of_bus hr hp (by rw [htime]; exact hbefore)).trans hu
    exact ⟨u, hstep, fun _ => ⟨exec_bus_tickNo hu hno, (exec_env hu).pending⟩, fun h => absurd h (Nat.not_le.mpr hbefore)⟩
  · have htick : TickNext s := .inr (.inl ⟨d, op, w, ps, hp, by rw [hphase]; exact hafter⟩)
    obtain ⟨u, hu, -, hno', hpending⟩ := step_tick_timeBase hr htick
    refine ⟨u, hu, fun h => absurd hafter (Nat.not_le.mpr h), fun _ => ⟨by rw [hno', hno], ?_⟩⟩
    rw [hpending, htime, hp, passTime]

end Sys2Proof.Machine
end

section
/-! SUPPORT. The drive phases tick by tick (R150, R151). -/

namespace Sys2Proof.Machine

/-- A run and one more step. -/
theorem runSteps_succ_of_next {n : Nat} {s t u : State} (hrun : runSteps n s = .next t) (hstep : step t = .next u) :
    runSteps (n + 1) s = .next u :=
  (runSteps_add_of_next 1 hrun).trans (runSteps_one hstep)

/-- With nothing pending the tick's own bookkeeping is the phase and the tick number. -/
theorem beginTick_of_pending_nil {s : State} (hp : s.pending = []) :
    s.beginTick = { s with phase := 0, tickNo := s.tickNo + 1 } := by
  simp [State.beginTick, hp, passTime]

/-- A STATE whose ticks read no sample and are those of a drive phase. -/
structure Drives (code : BitVec 4) (ticks : Nat) (after : BitVec 4) : Prop where
  unsampled : code.toNat < 3
  width : ticks ≤ 4096
  meaning : ∀ s : State, exec (decode (.fsm code .low)) s = .next (drivePhase ticks after s)

theorem drives_wakeLow : Drives stWakeLow 3000 stReqHigh := ⟨by decide, by decide, fun _ => rfl⟩

theorem drives_reqHigh : Drives stReqHigh 25 stAckLow := ⟨by decide, by decide, fun _ => rfl⟩

section DrivePhase

variable {code after : BitVec 4} {ticks : Nat} {s : State}

/-- One tick of a drive phase. -/
theorem Drives.step (h : Drives code ticks after) (hs : s.stateReg = code) (hp : s.pending = [])
    (hr : s.resetLine = false) :
    step s = .next (drivePhase ticks after { s with phase := 0, tickNo := s.tickNo + 1 }) := by
  subst hs
  have hw : waiting s.beginTick = false :=
    (waiting_eq_false_iff s.beginTick).mpr fun hwait => absurd hwait.1 (Nat.not_le.mpr h.unsampled)
  rw [step_of_tickNext hr (.inl hp) (drawSample_idle hw), h.meaning, beginTick_of_pending_nil hp]

/-- The ticks of a drive phase before its last: C counts them. -/
theorem Drives.run (h : Drives code ticks after) (hs : s.stateReg = code) (hc : s.c = 0#12) (hp : s.pending = [])
    (hr : s.resetLine = false) {n : Nat} (hn : n < ticks) :
    ∃ phase, runSteps n s = .next { s with c := BitVec.ofNat 12 n, phase := phase, tickNo := s.tickNo + n } := by
  induction n with
  | zero => exact ⟨s.phase, by rw [← hc]; rfl⟩
  | succ n ih =>
    obtain ⟨phase, hrun⟩ := ih (Nat.lt_of_succ_lt hn)
    have hcount : (BitVec.ofNat 12 n).toNat = n := by
      have hwidth := h.width
      rw [BitVec.toNat_ofNat]
      omega
    refine ⟨0, (runSteps_succ_of_next hrun (h.step (by exact hs) (by exact hp) (by exact hr))).trans ?_⟩
    obtain ⟨hlast, -⟩ | ⟨-, e⟩ := drivePhase_cases ticks after
      { s with c := BitVec.ofNat 12 n, phase := 0, tickNo := s.tickNo + n + 1 }
    · exact absurd (hcount ▸ hlast) hn.ne
    · rw [e, BitVec.ofNat_add]
      rfl

/-- A whole drive phase: it enters the STATE after it with C = 0. -/
theorem Drives.run_all (h : Drives code ticks after) (hs : s.stateReg = code) (hc : s.c = 0#12) (hp : s.pending = [])
    (hr : s.resetLine = false) (hpos : 0 < ticks) :
    runSteps ticks s = .next { s with stateReg := after, c := 0#12, phase := 0, tickNo := s.tickNo + ticks } := by
  obtain ⟨n, rfl⟩ := Nat.exists_eq_succ_of_ne_zero hpos.ne'
  obtain ⟨phase, hrun⟩ := h.run hs hc hp hr n.lt_succ_self
  have hcount : (BitVec.ofNat 12 n).toNat = n := by
    have hwidth := h.width
    rw [BitVec.toNat_ofNat]
    omega
  refine (runSteps_succ_of_next hrun (h.step (by exact hs) (by exact hp) (by exact hr))).trans ?_
  obtain ⟨-, e⟩ | ⟨hmore, -⟩ := drivePhase_cases n.succ after
    { s with c := BitVec.ofNat 12 n, phase := 0, tickNo := s.tickNo + n + 1 }
  · rw [e]
    rfl
  · exact absurd (congrArg Nat.succ hcount) hmore

end DrivePhase

/-! ### From START to the release of the line -/

/-- After 3000 ticks the request pulse begins. -/
theorem Started.run_wake {s : State} (h : Started s) :
    runSteps 3000 s = .next { s with stateReg := stReqHigh, c := 0#12, phase := 0, tickNo := s.tickNo + 3000 } := by
  obtain ⟨hs, hc, -, -, -, hp, hr⟩ := h
  exact drives_wakeLow.run_all hs hc hp hr (by decide)

/-- After 3025 ticks the line is released and ACK_LOW begins. -/
theorem Started.run_request {s : State} (h : Started s) :
    runSteps 3025 s = .next { s with stateReg := stAckLow, c := 0#12, phase := 0, tickNo := s.tickNo + 3025 } := by
  have hwake := h.run_wake
  obtain ⟨-, -, -, -, -, hp, hr⟩ := h
  exact (runSteps_add_of_next 25 hwake).trans (drives_reqHigh.run_all rfl rfl hp hr (by decide))

end Sys2Proof.Machine
end

section
/-! The statements on the state: the invariant, what can change STATE, the readings and PIN, the engine steps of the drive
phases and of BIT_HIGH, the packing of forty bits, reset, and what a host access sees. -/

namespace Sys2Proof.Machine

/-! ### The invariant -/

/-- Settles O34: the inversion of `step`, and one rule of the invariant for each kind of event. -/
theorem reachableStateInvariantKept : Obligations.ReachableStateInvariantKept := fun _ _ h hstep => h.afterStep hstep

/-- Settles O33: the reset state is a reset block with reset released. -/
theorem reachableStateInvariantAtReset : Obligations.ReachableStateInvariantAtReset := Inv.resetBlock State.reset false

/-! ### What can change STATE, the readings and PIN -/

/-- Settles O35: at a tick the transition table, at a host access only START. -/
theorem stateChangesOnlyByTransitionTable : Obligations.StateChangesOnlyByTransitionTable := by
  intro s t hstep hne
  obtain ⟨hr, u, hu⟩ | ⟨-, htick, l, u, hu, he⟩ | ⟨-, op, w, ps, d, hnext, -, he⟩ | ⟨-, ps, d, -, rfl⟩ := step_cases hstep
  · exact .inr (.inr ⟨by rw [hu]; rfl, hr⟩)
  · rw [← hu.registers.1] at he hne ⊢
    exact .inl ⟨htick, (exec_engine_transition he).resolve_left hne⟩
  · obtain ⟨rfl, hstart, hidle, rfl⟩ | ⟨-, -, rfl⟩ | ht := exec_bus_cases he
    · exact .inr (.inl ⟨rfl, (busy_eq_false_iff _).mp hidle, w, (startBit_eq_true_iff w).mp hstart, hnext⟩)
    · exact absurd rfl hne
    · exact absurd (by rw [ht]; rfl) hne
  · exact absurd rfl hne

/-- Settles O36: at a tick VALIDATE with a matching checksum, and no host access. -/
theorem readingWrittenOnlyByGoodValidate : Obligations.ReadingWrittenOnlyByGoodValidate := by
  intro s t hstep hne
  have changed (hsame : t.hum = s.hum ∧ t.temp = s.temp) : False := hne.elim (absurd hsame.1) (absurd hsame.2)
  obtain ⟨hr, u, hu⟩ | ⟨-, htick, l, u, hu, he⟩ | ⟨-, op, w, ps, d, -, -, he⟩ | ⟨-, ps, d, -, rfl⟩ := step_cases hstep
  · exact .inr ⟨hr, by rw [hu]; rfl, by rw [hu]; rfl⟩
  · obtain ⟨hcode, hframe, hhum0, htemp0, -⟩ := hu.registers
    rw [← hcode] at he
    obtain ⟨hhum, htemp⟩ | ⟨hs, ht, hsum, hhum, htemp⟩ := exec_engine_readings he
    · exact (changed ⟨hhum.trans hhum0, htemp.trans htemp0⟩).elim
    · rw [hframe] at hsum hhum htemp
      rw [hcode] at hs
      exact .inl ⟨htick, congrArg BitVec.toNat hs, congrArg BitVec.toNat ht, (checksumOk_eq_true_iff s.f).mp hsum,
        by rw [hhum]; exact humidity_toNat s.f, htemp⟩
  · obtain ⟨-, -, -, rfl⟩ | ⟨-, -, rfl⟩ | ht := exec_bus_cases he
    · exact (changed ⟨rfl, rfl⟩).elim
    · exact (changed ⟨rfl, rfl⟩).elim
    · exact (changed (by rw [ht]; exact ⟨rfl, rfl⟩)).elim
  · exact (changed ⟨rfl, rfl⟩).elim

/-- Settles O37: no engine step touches PIN, and of the host accesses only a write to PIN while not busy. -/
theorem pinChangesOnlyByHostWriteWhileIdle : Obligations.PinChangesOnlyByHostWriteWhileIdle := by
  intro s t hstep hne
  obtain ⟨hr, -⟩ | ⟨-, -, l, u, hu, he⟩ | ⟨-, op, w, ps, d, hnext, -, he⟩ | ⟨-, ps, d, -, rfl⟩ := step_cases hstep
  · exact .inr hr
  · obtain ⟨hcode, -, -, -, hpin⟩ := hu.registers
    rw [← hcode] at he
    exact absurd ((exec_engine_frame he).1.trans hpin) hne
  · obtain ⟨-, -, -, rfl⟩ | ⟨rfl, hidle, rfl⟩ | ht := exec_bus_cases he
    · exact absurd rfl hne
    · exact .inl ⟨(busy_eq_false_iff _).mp hidle, w, hnext, pinField_toNat w⟩
    · exact absurd (by rw [ht]; rfl) hne
  · exact absurd rfl hne

/-! ### Engine steps -/

/-- Settles O22: the two cases of a drive phase. -/
theorem wakeLowCountsToThreeThousand : Obligations.WakeLowCountsToThreeThousand := by
  intro s
  refine ⟨fun l => rfl, fun hc => ?_, fun hc => ?_, pad_wakeLow⟩
  · obtain ⟨-, e⟩ | ⟨hne, -⟩ := drivePhase_cases 3000 stReqHigh s
    · exact congrArg Host.Outcome.next e
    · exact absurd hc hne
  · obtain ⟨he, -⟩ | ⟨-, e⟩ := drivePhase_cases 3000 stReqHigh s
    · exact absurd he hc
    · exact congrArg Host.Outcome.next e

/-- Settles O23: the two cases of a drive phase, and ACK_LOW does not drive the pad. -/
theorem reqHighCountsToTwentyFive : Obligations.ReqHighCountsToTwentyFive := by
  intro s
  refine ⟨fun l => rfl, fun hc => ?_, fun hc => ?_, pad_reqHigh⟩
  · obtain ⟨-, e⟩ | ⟨hne, -⟩ := drivePhase_cases 25 stAckLow s
    · exact ⟨_, congrArg Host.Outcome.next e, rfl, rfl⟩
    · exact absurd hc hne
  · obtain ⟨he, -⟩ | ⟨-, e⟩ := drivePhase_cases 25 stAckLow s
    · exact absurd he hc
    · exact congrArg Host.Outcome.next e

/-- Settles O41: the ticks of the wake pulse, those of the request pulse, and its last. -/
theorem wakeAndRequestDriveTimes : Obligations.WakeAndRequestDriveTimes := by
  intro s n hstart hn
  have hwake := hstart.run_wake
  have hrequest := hstart.run_request
  obtain ⟨hs, hc, -, -, -, hp, hr⟩ := hstart
  obtain hlow | ⟨k, rfl, hk⟩ | rfl : n < 3000 ∨ (∃ k, n = 3000 + k ∧ k < 25) ∨ n = 3025 := by
    obtain h | h := Nat.lt_or_ge n 3000
    · exact .inl h
    · exact .inr ((Nat.lt_or_eq_of_le hn).imp_left fun h' => ⟨n - 3000, by omega, by omega⟩)
  · obtain ⟨phase, hrun⟩ := drives_wakeLow.run hs hc hp hr hlow
    obtain ⟨hoe, hout⟩ := pad_wakeLow
      (s := { s with c := BitVec.ofNat 12 n, phase := phase, tickNo := s.tickNo + n }) hs
    exact ⟨_, hrun, rfl, rfl, rfl, by rw [hoe, decide_eq_true (by omega)], by rw [hout, decide_eq_false (by omega)],
      fun h => by omega⟩
  · obtain ⟨phase, hrun⟩ := drives_reqHigh.run (s := { s with
      stateReg := stReqHigh, c := 0#12, phase := 0, tickNo := s.tickNo + 3000 }) rfl rfl hp hr hk
    exact ⟨_, (runSteps_add_of_next k hwake).trans hrun, Nat.add_assoc .., rfl, rfl,
      (decide_eq_true (by omega : 3000 + k < 3025)).symm,
      (decide_eq_true (by omega : 3000 ≤ 3000 + k ∧ 3000 + k < 3025)).symm, fun h => by omega⟩
  · exact ⟨_, hrequest, rfl, rfl, rfl, rfl, rfl, fun _ => ⟨rfl, rfl⟩⟩

/-- Settles O27: on a low sample the step is `takeBit`, whose frame and position are Pack's; on a high one it is WAIT's
Timeout or Continue. -/
theorem bitHighClassifiesAndPacks : Obligations.BitHighClassifiesAndPacks := by
  intro s
  refine ⟨fun l => rfl, ⟨takeBit s.c.toNat s, rfl, ?_⟩, fun hc => ?_, fun hc => ?_⟩
  · rw [takeBit_eq]
    have hbit := pack_bitIdx_toNat s.f s.byteIdx s.bitIdx (classify s.c.toNat)
    have hbyte := pack_byteIdx_toNat s.f s.byteIdx s.bitIdx (classify s.c.toNat)
    refine ⟨rfl, hbit, hbyte, fun hfull => ?_, fun hmore => ?_, fun hc => ?_,
      fun hc hle k hk => ?_⟩
    · have h5 : (pack s.f s.byteIdx s.bitIdx (classify s.c.toNat)).byteIdx = 5#3 := BitVec.eq_of_toNat_eq hfull
      exact ⟨if_pos h5, if_pos h5⟩
    · have h5 : (pack s.f s.byteIdx s.bitIdx (classify s.c.toNat)).byteIdx ≠ 5#3 := fun e => hmore (congrArg BitVec.toNat e)
      exact ⟨if_neg h5, if_neg h5⟩
    · simp only [classify_of_le hc, pack, Bool.false_eq_true, if_false]
    · simp only [streamBit_pack s.f s.bitIdx _ hle hk, classify_of_lt hc, Bool.true_and, bitPosition]
  · simp only [exec, execEngBitHigh, wait_timeout .high hc]
    rfl
  · simp only [exec, execEngBitHigh, wait_again .high hc]
    rfl

/-- Settles O43: each pack sets the next stream bit, and a frame is its forty stream bits. -/
theorem fortyPacksBuildTheFrame : Obligations.FortyPacksBuildTheFrame := by
  intro bits hlen
  obtain ⟨hframe, hbyte, hbit⟩ := packAll_full hlen
  obtain ⟨-, hbits⟩ := packAll_spec bits hlen.le
  exact ⟨hframe, hbyte, hbit, hbits, hbits 0 (by decide), hbits 39 (by decide)⟩

/-! ### Reset and host accesses -/

/-- Settles O1: the reset values, and the register words of a block that holds them. -/
theorem resetStateHoldsSpecValues : Obligations.ResetStateHoldsSpecValues := by
  refine ⟨⟨rfl, rfl, rfl, rfl, rfl, rfl, rfl, rfl⟩, rfl, rfl, rfl, rfl, rfl, rfl, rfl, ?_⟩
  have hpin : Config.defaultPin.toNat < 2 ^ 8 := Config.defaultPin.isLt
  rw [memRead_pin, pinWord, BitVec.toNat_setWidth]
  exact Nat.mod_eq_of_lt (hpin.trans (by decide))

/-- Settles O18: an access is a register read or a register write, and neither depends on the hidden state. -/
theorem hostAccessRevealsNoHiddenState : Obligations.HostAccessRevealsNoHiddenState := by
  intro s s' op w hstate hhum htemp hpin hrdata
  obtain ⟨t, ht⟩ := exec_next (decode (.hbus op w)) s
  obtain ⟨t', ht'⟩ := exec_next (decode (.hbus op w)) s'
  refine ⟨t, t', ht, ht', ?_⟩
  obtain ⟨hw, rfl⟩ | ⟨hw, rfl⟩ := exec_bus ht <;> obtain ⟨hw', rfl⟩ | ⟨hw', rfl⟩ := exec_bus ht'
  · exact memWrite_congr hstate hhum htemp hpin hrdata (opAddr op) w
  · exact absurd hw (by simp [hw'])
  · exact absurd hw (by simp [hw'])
  · exact ⟨memRead_congr hstate hhum htemp hpin (opAddr op), hstate, hhum, htemp, hpin⟩

/-- Settles O21: START leaves phase 0 and tick number 0, and the next access is before tick 1 or after it. -/
theorem startRestartsTheTimeBase : Obligations.StartRestartsTheTimeBase := by
  intro s d w ps hidle hr hw hp hd
  have hstep := (step_of_bus hr hp (Nat.lt_sub_iff_add_lt'.mpr hd)).trans
    (exec_start ((busy_eq_false_iff _).mpr hidle) ((startBit_eq_true_iff w).mpr hw))
  exact ⟨_, hstep, rfl, rfl, rfl, fun d' op x ps' hps => step_after_restart hr rfl rfl hps⟩

end Sys2Proof.Machine
end

section
/-! SUPPORT. The register space outside its six offsets and byte by byte, the access after a START, and the tick of a block
that is not busy. -/

namespace Sys2Proof.Machine

/-! ### The register space -/

/-- A misaligned address, and one past the last register, is none of the six offsets (R61, R62). -/
theorem isMapped_eq_false_of_outside {addr : Addr} :
    addr.toNat % 4 ≠ 0 ∨ 0x14 < addr.toNat → isMapped addr = false := by
  revert addr
  decide

theorem ne_of_isMapped {addr k : Addr} (h : isMapped addr = false) (hk : isMapped k = true) : addr ≠ k := by
  rintro rfl
  exact absurd hk (by simp [h])

theorem memRead_unmapped {addr : Addr} (h : isMapped addr = false) (s : State) : memRead s addr = 0#32 := by
  simp only [memRead, ne_of_isMapped h (k := 0x00#8) rfl, ne_of_isMapped h (k := 0x04#8) rfl,
    ne_of_isMapped h (k := 0x08#8) rfl, ne_of_isMapped h (k := 0x0C#8) rfl, ne_of_isMapped h (k := 0x10#8) rfl,
    ne_of_isMapped h (k := 0x14#8) rfl, if_false, unmappedWord]

theorem memWrite_unmapped {addr : Addr} (h : isMapped addr = false) (s : State) (w : Word) : memWrite s addr w = s := by
  obtain ⟨-, rfl, -⟩ | ⟨-, rfl, -⟩ | hsame := memWrite_cases s addr w
  · exact absurd h (by decide)
  · exact absurd h (by decide)
  · exact hsame

/-- The value of a word from its four bytes, the least significant first (R66). -/
theorem word_toNat_eq_bytes (w : Word) :
    w.toNat = (w.extractLsb' 0 8).toNat + 256 * (w.extractLsb' 8 8).toNat + 65536 * (w.extractLsb' 16 8).toNat +
      16777216 * (w.extractLsb' 24 8).toNat := by
  have hw := w.isLt
  simp only [BitVec.extractLsb'_toNat, Nat.shiftRight_eq_div_pow]
  omega

/-! ### The access after a START (R71) -/

/-- In WAKE_LOW, STATUS shows BUSY and STATE 1, and no result (R85). -/
theorem statusWord_wakeLow {s : State} (h : s.stateReg = stWakeLow) : statusWord s = 0x00000011#32 := by
  simp only [statusWord, resultCode, busy, h]
  rfl

theorem State.writePin_of_busy {s : State} (h : busy s = true) (w : Word) : s.writePin w = s := if_pos h

/-- An accepted START and then an access that comes before tick 1: two steps, the second run in the started block. -/
theorem runSteps_start_bus {s : State} {d d' : Nat} {op : BitVec 9} {w x : Word} {ps : List Pending}
    (hidle : busy s = false) (hr : s.resetLine = false) (hw : startBit w = true) (hd : s.phase + d < 1000) (hd' : d' < 1000)
    (hp : s.pending = { delay := d, action := .bus 0x100#9 w } :: { delay := d', action := .bus op x } :: ps) :
    runSteps 2 s = exec (decode (.hbus op x)) { s.startDecode with pending := ps, phase := d' } := by
  have hstart := (step_of_bus hr hp (Nat.lt_sub_iff_add_lt'.mpr hd)).trans (exec_start hidle hw)
  have haccess : step ({ s with pending := { delay := d', action := .bus op x } :: ps, phase := s.phase + d }.startDecode) =
      exec (decode (.hbus op x)) { s.startDecode with pending := ps, phase := 0 + d' } :=
    step_of_bus (s := State.startDecode _) hr rfl hd'
  rw [Nat.zero_add] at haccess
  obtain ⟨t, ht⟩ := exec_next (decode (.hbus op x)) { s.startDecode with pending := ps, phase := d' }
  rw [ht] at haccess ⊢
  exact runSteps_succ_of_next (runSteps_one hstart) haccess

/-! ### A tick of a block that is not busy (R72) -/

/-- The engine steps of IDLE and of the terminal states change nothing (R166–R169). -/
theorem exec_engine_rest {code : BitVec 4} (h : code.toNat = 0 ∨ (8 ≤ code.toNat ∧ code.toNat ≤ 10)) (l : Level)
    (s : State) : exec (decode (.fsm code l)) s = .next s := by
  have codes : ∀ x : BitVec 4, x.toNat = 0 ∨ (8 ≤ x.toNat ∧ x.toNat ≤ 10) →
      x = stIdle ∨ x = stSuccess ∨ x = stTimeoutErr ∨ x = stChecksumErr := by decide
  obtain rfl | rfl | rfl | rfl := codes code h <;> rfl

end Sys2Proof.Machine
end

section
/-! The statements on the register space and on what comes after a START or at a tick of a block that is not busy. -/

namespace Sys2Proof.Machine

/-- Settles O16: the inversion of a host access, and the addresses outside the map. -/
theorem busAccessIsRegisterSpaceAccess : Obligations.BusAccessIsRegisterSpaceAccess := by
  refine ⟨fun s op w => ?_, fun s addr w h => ?_⟩
  · change _ = Host.Outcome.next (if opWrite op then memWrite s (opAddr op) w else s.respond (memRead s (opAddr op)))
    obtain ⟨t, ht⟩ := exec_next (decode (.hbus op w)) s
    obtain ⟨hwrite, rfl⟩ | ⟨hread, rfl⟩ := exec_bus ht
    · rw [ht, if_pos hwrite]
    · rw [ht, hread, if_neg Bool.false_ne_true]
  · have hout := isMapped_eq_false_of_outside h
    exact ⟨memRead_unmapped hout s, memWrite_unmapped hout s w⟩

/-- Settles O17: a word is its four bytes. -/
theorem registerBytesAreLittleEndian : Obligations.RegisterBytesAreLittleEndian := fun s addr =>
  word_toNat_eq_bytes (memRead s addr)

/-- Settles O20: both accesses run in the started block, which is in WAKE_LOW and so busy. -/
theorem startIsVisibleToTheNextAccess : Obligations.StartIsVisibleToTheNextAccess := by
  intro s d d' w x ps hidle hr hw hd hd'
  have hidle := (busy_eq_false_iff s).mpr hidle
  have hw := (startBit_eq_true_iff w).mpr hw
  refine ⟨fun hp => ?_, fun hp => ?_⟩
  · exact ⟨_, runSteps_start_bus hidle hr hw hd hd' hp, statusWord_wakeLow rfl, rfl, rfl⟩
  · have hpin : exec (decode (.hbus 0x114#9 x)) { s.startDecode with pending := ps, phase := d' } =
        .next { s.startDecode with pending := ps, phase := d' } :=
      congrArg Host.Outcome.next (State.writePin_of_busy rfl x)
    exact ⟨_, (runSteps_start_bus hidle hr hw hd hd' hp).trans hpin, rfl, rfl, rfl⟩

/-- Settles O39: the tick draws no sample, and the engine step of its STATE changes nothing. -/
theorem tickWhileNotBusyChangesNoRegister : Obligations.TickWhileNotBusyChangesNoRegister := by
  intro s hrest hr htick
  have hw : waiting s.beginTick = false := (waiting_eq_false_iff s.beginTick).mpr (by rw [State.beginTick_stateReg]; omega)
  exact (step_of_tickNext hr htick (drawSample_idle hw)).trans (exec_engine_rest hrest .low s.beginTick)

end Sys2Proof.Machine
end

section
/-! SUPPORT. The decoder against the encoder and against the rows of the opcode map (R91, R92). -/

namespace Sys2Proof

/-! ### Every selector is an exact row or belongs to a lowest-priority one -/

/-- A STATE code is one of the eleven of R22 or reserved (R26). -/
theorem engineCode_cases (code : BitVec 4) :
    code = 0#4 ∨ code = 1#4 ∨ code = 2#4 ∨ code = 3#4 ∨ code = 4#4 ∨ code = 5#4 ∨ code = 6#4 ∨ code = 7#4 ∨
    code = 8#4 ∨ code = 9#4 ∨ code = 10#4 ∨ isReservedCode code = true := by
  revert code
  decide

theorem decodeEngine_reserved {code : BitVec 4} (h : isReservedCode code = true) (l : Level) :
    decodeEngine code l = .engReserved code := by
  revert code
  cases l <;> decide

/-! ### Decode after encode (R80–R82) -/

/-- Every well-formed instruction is the one that its code decodes to. -/
theorem decode_encode {i : Instr} (h : i.wellFormed = true) : decode (encode i) = i := by
  have unmapped {we : Bool} {addr : Addr} (ha : isMapped addr = false) (w : Word) :
      decode (.hbus (makeOp we addr) w) = if we then .wrUnmapped addr w else .rdUnmapped addr := by
    rw [decode, decodeHost_unmapped (by rw [opAddr_makeOp, ha]), opWrite_makeOp, opAddr_makeOp]
  cases i with
  | rdUnmapped addr => exact unmapped (by simpa [Instr.wellFormed] using h) 0#32
  | wrUnmapped addr w => exact unmapped (by simpa [Instr.wellFormed] using h) w
  | engReserved code => exact decodeEngine_reserved h .low
  | _ => rfl

/-- The bytes of every instruction are read back as its code (log 11). -/
theorem codeOfBytes_encodeBytes (i : Instr) (rest : List Byte) :
    codeOfBytes i.format (encodeBytes i ++ rest) = .ok (encode i, rest) := by
  cases i with
  | rdCtrl => exact Laws.ByteImage.rdCtrl rest
  | wrCtrl w => exact Laws.ByteImage.wrCtrl w rest
  | rdStatus => exact Laws.ByteImage.rdStatus rest
  | wrStatus w => exact Laws.ByteImage.wrStatus w rest
  | rdHumidity => exact Laws.ByteImage.rdHumidity rest
  | wrHumidity w => exact Laws.ByteImage.wrHumidity w rest
  | rdTemperature => exact Laws.ByteImage.rdTemperature rest
  | wrTemperature w => exact Laws.ByteImage.wrTemperature w rest
  | rdReading => exact Laws.ByteImage.rdReading rest
  | wrReading w => exact Laws.ByteImage.wrReading w rest
  | rdPin => exact Laws.ByteImage.rdPin rest
  | wrPin w => exact Laws.ByteImage.wrPin w rest
  | rdUnmapped addr => exact Laws.ByteImage.rdUnmapped addr rest
  | wrUnmapped addr w => exact Laws.ByteImage.wrUnmapped addr w rest
  | engIdle => exact Laws.ByteImage.engIdle rest
  | engWakeLow => exact Laws.ByteImage.engWakeLow rest
  | engReqHigh => exact Laws.ByteImage.engReqHigh rest
  | engAckLow l => exact Laws.ByteImage.engAckLow l rest
  | engAckHigh l => exact Laws.ByteImage.engAckHigh l rest
  | engBitLow l => exact Laws.ByteImage.engBitLow l rest
  | engBitHigh l => exact Laws.ByteImage.engBitHigh l rest
  | engValidate => exact Laws.ByteImage.engValidate rest
  | engSuccess => exact Laws.ByteImage.engSuccess rest
  | engTimeoutErr => exact Laws.ByteImage.engTimeoutErr rest
  | engChecksumErr => exact Laws.ByteImage.engChecksumErr rest
  | engReserved code => exact Laws.ByteImage.engReserved code rest

/-! ### Encode after decode (R80–R82, R93) -/

/-- A host selector's instruction is well formed, and encodes to the selector with WDATA kept on writes. -/
theorem encode_decodeHost (op : BitVec 9) (w : Word) :
    (decodeHost op w).wellFormed = true ∧
    encode (decodeHost op w) = .hbus op (if opWrite op then w else 0#32) := by
  cases hm : isMapped (opAddr op) with
  | true =>
    obtain rfl | rfl | rfl | rfl | rfl | rfl | rfl | rfl | rfl | rfl | rfl | rfl := op_of_mapped op hm <;>
      exact ⟨rfl, rfl⟩
  | false =>
    have hop := makeOp_opWrite_opAddr op
    rw [decodeHost_unmapped hm]
    cases hw : opWrite op <;> rw [hw] at hop <;> simp [Instr.wellFormed, encode, hm, hop]

/-- An engine selector's instruction is well formed, and encodes to the selector with the sample kept in states 3..6. -/
theorem encode_decodeEngine (code : BitVec 4) (l : Level) :
    (decodeEngine code l).wellFormed = true ∧
    encode (decodeEngine code l) = .fsm code (if 3 ≤ code.toNat ∧ code.toNat ≤ 6 then l else .low) := by
  obtain rfl | rfl | rfl | rfl | rfl | rfl | rfl | rfl | rfl | rfl | rfl | hr := engineCode_cases code
  iterate 11 exact ⟨rfl, rfl⟩
  have hcode : 11 ≤ code.toNat := of_decide_eq_true hr
  rw [decodeEngine_reserved hr, if_neg (by omega)]
  exact ⟨hr, rfl⟩

end Sys2Proof

namespace Sys2Proof.Machine

/-! ### The rows of the opcode map (R91, R92) -/

/-- A code that matches none of the rows ahead is looked up in the rows after them. -/
theorem firstMatch_append_of_miss {w : Nat} {ahead : List (OpRow w)} {code : BitVec w}
    (h : ∀ r ∈ ahead, code &&& r.mask ≠ r.value) (rows : List (OpRow w)) :
    firstMatch (ahead ++ rows) code = firstMatch rows code := by
  have noneAhead : ahead.find? (fun r => code &&& r.mask == r.value) = none := by
    simpa only [List.find?_eq_none, beq_iff_eq] using h
  rw [firstMatch, List.find?_append, noneAhead, Option.none_or, firstMatch]

/-- An OP with an unmapped address matches no exact row, and of the unmapped rows the one that its WE names (R91). -/
theorem firstMatch_hostRows_unmapped {op : BitVec 9} (h : isMapped (opAddr op) = false) :
    firstMatch hostRows op = some (if opWrite op then "WR.UNMAPPED" else "RD.UNMAPPED") := by
  have exactRows : ∀ r ∈ hostRows.take 12, r.mask = BitVec.allOnes 9 ∧ isMapped (opAddr r.value) = true := by decide
  have miss : ∀ r ∈ hostRows.take 12, op &&& r.mask ≠ r.value := by
    intro r hr hop
    obtain ⟨hmask, hvalue⟩ := exactRows r hr
    rw [hmask, BitVec.and_allOnes] at hop
    exact ne_of_isMapped h hvalue (congrArg opAddr hop)
  have we : ∀ op : BitVec 9, op &&& 0x100#9 = if opWrite op then 0x100#9 else 0#9 := by decide
  rw [← List.take_append_drop 12 hostRows, firstMatch_append_of_miss miss]
  cases hw : opWrite op <;> simp [firstMatch, hostRows, we, hw]

/-- A reserved STATE code matches only the last row (R92). -/
theorem firstMatch_engineRows_reserved {code : BitVec 4} (h : isReservedCode code = true) :
    firstMatch engineRows code = some "ENG.RESERVED" := by
  have miss : ∀ code : BitVec 4, isReservedCode code = true →
      ∀ r ∈ engineRows.take 11, code &&& r.mask ≠ r.value := by decide
  have high : ∀ code : BitVec 4, isReservedCode code = true → code &&& 0x8#4 = 0x8#4 := by decide
  rw [← List.take_append_drop 11 engineRows, firstMatch_append_of_miss (miss code h)]
  simp [firstMatch, engineRows, high code h]

theorem firstMatch_hostRows_decodeHost (op : BitVec 9) (w : Word) :
    firstMatch hostRows op = some (mnemonicOf (decodeHost op w)) := by
  cases hm : isMapped (opAddr op) with
  | true =>
    obtain rfl | rfl | rfl | rfl | rfl | rfl | rfl | rfl | rfl | rfl | rfl | rfl := op_of_mapped op hm <;> rfl
  | false =>
    rw [firstMatch_hostRows_unmapped hm, decodeHost_unmapped hm]
    cases opWrite op <;> rfl

theorem firstMatch_engineRows_decodeEngine (code : BitVec 4) (l : Level) :
    firstMatch engineRows code = some (mnemonicOf (decodeEngine code l)) := by
  obtain rfl | rfl | rfl | rfl | rfl | rfl | rfl | rfl | rfl | rfl | rfl | hr := engineCode_cases code
  iterate 11 rfl
  rw [firstMatch_engineRows_reserved hr, decodeEngine_reserved hr]
  rfl

/-! ### The words of the reading registers in numbers -/

theorem humidityWord_toNat (s : State) : (humidityWord s).toNat = s.hum.toNat :=
  BitVec.toNat_setWidth_of_le (by decide)

theorem temperatureWord_toInt (s : State) : (temperatureWord s).toInt = s.temp.toInt :=
  BitVec.toInt_signExtend_of_le (by decide)

theorem readingWord_toNat (s : State) : (readingWord s).toNat = s.temp.toNat * 65536 + s.hum.toNat := by
  rw [readingWord, BitVec.toNat_append, ← Nat.shiftLeft_add_eq_or_of_lt s.hum.isLt, Nat.shiftLeft_eq]

end Sys2Proof.Machine
end

section
/-! SUPPORT. A step against what the line shows: no instruction reads the line, only a tick of a wait state does (R82,
R130). -/

namespace Sys2Proof.Machine

/-- The state with another line: other listed samples, and another place among the free ones. -/
def State.withLine (line : List Level) (draws : Nat) (s : State) : State := { s with line := line, draws := draws }

/-- The event run in a state with another line. -/
def Event.withLine (line : List Level) (draws : Nat) : Event → Event
  | .run code s => .run code (s.withLine line draws)
  | .resetInput asserted s => .resetInput asserted (s.withLine line draws)

/-- A tick outside the wait states runs STATE without reading a sample (R82). -/
theorem tickEvent_idle {s : State} (hw : waiting s = false) :
    tickEvent s = .run (.fsm s.stateReg .low) s.beginTick := by
  rw [tickEvent, drawSample_idle (s := s.beginTick) hw]

section WithLine

variable (line : List Level) (draws : Nat)

/-! ### The meanings of the instructions -/

theorem writeCtrl_withLine (w : Word) (s : State) :
    (s.withLine line draws).writeCtrl w = (s.writeCtrl w).withLine line draws := by
  rw [State.writeCtrl, State.writeCtrl, apply_ite (State.withLine line draws)]
  rfl

theorem writePin_withLine (w : Word) (s : State) :
    (s.withLine line draws).writePin w = (s.writePin w).withLine line draws := by
  rw [State.writePin, State.writePin, apply_ite (State.withLine line draws)]
  rfl

theorem drivePhase_withLine (ticks : Nat) (after : BitVec 4) (s : State) :
    drivePhase ticks after (s.withLine line draws) = (drivePhase ticks after s).withLine line draws := by
  rw [drivePhase, drivePhase, apply_ite (State.withLine line draws)]
  rfl

theorem takeBit_withLine (d : Nat) (s : State) :
    takeBit d (s.withLine line draws) = (takeBit d s).withLine line draws := by
  rw [takeBit_eq, takeBit_eq]
  rfl

theorem driveReset_withLine (asserted : Bool) (s : State) :
    (s.withLine line draws).driveReset asserted = (s.driveReset asserted).withLine line draws := by
  rw [State.driveReset, State.driveReset, apply_ite (State.withLine line draws)]
  rfl

theorem wait_withLine (v : Level) (bound : Nat) (sample : Level) (s : State) :
    wait v bound sample (s.withLine line draws) =
      ((wait v bound sample s).1, (wait v bound sample s).2.withLine line draws) := by
  by_cases hv : sample = v
  · subst hv
    obtain hb | hb := Nat.lt_or_ge bound s.c.toNat
    · rw [wait_timeout sample (s := s) hb]
      exact wait_timeout sample (s := s.withLine line draws) hb
    · rw [wait_again sample (s := s) hb]
      exact wait_again sample (s := s.withLine line draws) hb
  · rw [wait_done bound (s := s) hv]
    exact wait_done bound (s := s.withLine line draws) hv

theorem waitPhase_withLine (v : Level) (bound : Nat) (after : BitVec 4) (sample : Level) (s : State) :
    waitPhase v bound after sample (s.withLine line draws) =
      (waitPhase v bound after sample s).withLine line draws := by
  rw [waitPhase, wait_withLine, waitPhase]
  obtain ⟨_ | _ | _, t⟩ := wait v bound sample s <;> rfl

variable {line draws}

/-- No instruction reads the line: the sample of a wait step is its operand (R82). -/
theorem exec_withLine {i : Instr} {s t : State} (h : exec i s = .next t) :
    exec i (s.withLine line draws) = .next (t.withLine line draws) := by
  cases i with
  | wrCtrl w => cases h; exact congrArg Host.Outcome.next (writeCtrl_withLine line draws w s)
  | wrPin w => cases h; exact congrArg Host.Outcome.next (writePin_withLine line draws w s)
  | engWakeLow => cases h; exact congrArg Host.Outcome.next (drivePhase_withLine line draws _ _ s)
  | engReqHigh => cases h; exact congrArg Host.Outcome.next (drivePhase_withLine line draws _ _ s)
  | engAckLow l => cases h; exact congrArg Host.Outcome.next (waitPhase_withLine line draws _ _ _ l s)
  | engAckHigh l => cases h; exact congrArg Host.Outcome.next (waitPhase_withLine line draws _ _ _ l s)
  | engBitLow l => cases h; exact congrArg Host.Outcome.next (waitPhase_withLine line draws _ _ _ l s)
  | engBitHigh l =>
    simp only [exec, execEngBitHigh, wait_withLine] at h ⊢
    generalize wait .high Config.tBitHigh l s = r at h ⊢
    obtain ⟨_ | _ | _, u⟩ := r <;> cases h
    · exact congrArg Host.Outcome.next (takeBit_withLine line draws _ u)
    · rfl
    · rfl
  | engValidate =>
    change execEngValidate s = .next t at h
    change execEngValidate (s.withLine line draws) = .next (t.withLine line draws)
    unfold execEngValidate at h ⊢
    split at h <;> cases h
    · exact if_pos ‹_›
    · exact if_neg ‹_›
  | _ => cases h; rfl

/-! ### Events -/

/-- What an event does is the same under another line, and leaves that line. -/
theorem runEvent_withLine {e : Event} {t : State} (h : runEvent e = .next t) :
    runEvent (e.withLine line draws) = .next (t.withLine line draws) := by
  cases e with
  | run code s =>
    obtain ⟨u, hu⟩ := exec_next (decode code) s
    simp only [runEvent, Event.withLine, hu, exec_withLine hu] at h ⊢
    cases hr : u.resetLine with
    | true =>
      rw [holdReset_asserted hr] at h
      cases h
      exact holdReset_asserted (t := u.withLine line draws) hr
    | false =>
      rw [holdReset_next hr] at h
      cases h
      exact holdReset_next (t := t.withLine line draws) hr
  | resetInput asserted s =>
    cases h
    exact congrArg Host.Outcome.next (driveReset_withLine line draws asserted s)

/-- Outside the wait states the next event does not depend on the line (R82). -/
theorem nextEvent_withLine {s : State} (hw : waiting s = false) :
    nextEvent (s.withLine line draws) = (nextEvent s).withLine line draws := by
  obtain ⟨ht, hn⟩ | ⟨op, w, -, -, ⟨d, ps, hp, hd⟩, -⟩ | ⟨l, -, -, ⟨d, ps, hp, hd⟩, -⟩ := nextEvent_decides s
  · rw [hn, tickEvent_idle hw, nextEvent_tick (s := s.withLine line draws) ht]
    exact tickEvent_idle (s := s.withLine line draws) hw
  · rw [nextEvent_bus hp hd]
    exact nextEvent_bus (s := s.withLine line draws) hp hd
  · rw [nextEvent_reset hp hd]
    exact nextEvent_reset (s := s.withLine line draws) hp hd

/-- Outside the wait states a step under another line does the same and leaves that line. -/
theorem step_withLine {s t : State} (hw : waiting s = false) (h : step s = .next t) :
    step (s.withLine line draws) = .next (t.withLine line draws) := by
  rw [step, nextEvent_withLine hw]
  exact runEvent_withLine h

end WithLine

/-- Outside the wait states a step reads no sample: under its own line it leaves its own line. -/
theorem step_line {s t : State} (hw : waiting s = false) (h : step s = .next t) :
    t.line = s.line ∧ t.draws = s.draws := by
  have own : step s = .next (t.withLine s.line s.draws) := step_withLine hw h
  rw [Host.Outcome.next.inj (h.symm.trans own)]
  exact ⟨rfl, rfl⟩

end Sys2Proof.Machine
end

section
/-! The statements on the encoding, on what every step answers, and on the line outside the wait states. -/

namespace Sys2Proof.Machine

/-- Settles O7: the bytes are read back as the code, and the code decodes to the instruction. -/
theorem decodeBytesOfEncodeBytes : Obligations.DecodeBytesOfEncodeBytes := by
  intro i rest h
  rw [decodeBytes, codeOfBytes_encodeBytes]
  exact congrArg (fun j => Except.ok (j, rest)) (decode_encode h)

/-- Settles O4: every event, whatever is pending, runs to a next state. -/
theorem everyStepAnswersNextState : Obligations.EveryStepAnswersNextState := step_next

/-- Settles O40: the next event and what running it does are the same under another line. -/
theorem lineIgnoredOutsideWaitStates : Obligations.LineIgnoredOutsideWaitStates := by
  intro s line' draws' hout
  have hw : waiting s = false := (waiting_eq_false_iff s).mpr hout
  obtain ⟨t, ht⟩ := step_next s
  obtain ⟨hline, hdraws⟩ := step_line hw ht
  exact ⟨t, ht, hline, hdraws, step_withLine hw ht⟩

/-- Settles O5: the decoder evaluated on the eleven words. -/
theorem specWordsDecodeAsTheMapSays : Obligations.SpecWordsDecodeAsTheMapSays := by
  unfold Obligations.SpecWordsDecodeAsTheMapSays
  decide

/-- Settles O6: an exact row's code is looked up as it stands; any other misses the exact rows, as the decoder does. -/
theorem decodePicksFirstMatchingRow : Obligations.DecodePicksFirstMatchingRow :=
  ⟨firstMatch_hostRows_decodeHost, firstMatch_engineRows_decodeEngine⟩

/-- Settles O8: the exact rows one by one, and the lowest-priority rows by the operand that they carry. -/
theorem encodeOfDecodeKeepsWhatTheRowReads : Obligations.EncodeOfDecodeKeepsWhatTheRowReads :=
  ⟨encode_decodeHost, encode_decodeEngine⟩

/-- Settles O11: each read answers its register word, whose value is that of the fields it is built from. -/
theorem readingRegistersAnswerLastGoodReading : Obligations.ReadingRegistersAnswerLastGoodReading := fun s _ =>
  ⟨⟨rfl, humidityWord s, rfl, humidityWord_toNat s⟩, ⟨rfl, temperatureWord s, rfl, temperatureWord_toInt s⟩,
    ⟨rfl, readingWord s, rfl, readingWord_toNat s⟩⟩

/-- Settles O48: the encoder of lines on four lines, and each expansion is the list that R95 gives. -/
theorem hostLinesEncodeAndExpand : Obligations.HostLinesEncodeAndExpand :=
  ⟨rfl, rfl, rfl, rfl, rfl, fun _ => rfl, fun _ => rfl, fun _ => rfl⟩

end Sys2Proof.Machine
end

section
/-! SUPPORT. The STATUS and PIN words in numbers, what an unmapped OP decodes to by its WE, and when a CTRL or PIN write
has an effect. -/

namespace Sys2Proof.Machine

/-! ### The STATUS and PIN words in numbers -/

theorem busy_eq_true_iff (s : State) : busy s = true ↔ 1 ≤ s.stateReg.toNat ∧ s.stateReg.toNat ≤ 7 :=
  decide_eq_true_iff

/-- RESULT by the STATE code's number (R41). -/
theorem resultCode_toNat (s : State) :
    (resultCode s).toNat = if s.stateReg.toNat = 8 then 1 else if s.stateReg.toNat = 9 then 2
      else if s.stateReg.toNat = 10 then 3 else 0 := by
  simp only [resultCode, ← BitVec.toNat_inj, apply_ite BitVec.toNat, BitVec.toNat_ofNat, Nat.reducePow, Nat.reduceMod]

/-- The fields of STATUS at their places: STATE from bit 4, RESULT from bit 1, BUSY at bit 0 (R85). -/
theorem statusWord_toNat (s : State) :
    (statusWord s).toNat = 16 * s.stateReg.toNat + 2 * (resultCode s).toNat + (busy s).toNat := by
  have fields : ∀ (st : BitVec 4) (res : BitVec 2) (b : Bool),
      (st ++ 0#1 ++ res ++ BitVec.ofBool b : BitVec 8).toNat = 16 * st.toNat + 2 * res.toNat + b.toNat := by decide
  rw [statusWord, BitVec.toNat_setWidth_of_le (by decide), fields]

theorem pinWord_toNat (s : State) : (pinWord s).toNat = s.pin.toNat :=
  BitVec.toNat_setWidth_of_le (by decide)

/-! ### Unmapped selectors (R91) -/

theorem decode_unmapped_read {op : BitVec 9} (hread : opWrite op = false) (h : isMapped (opAddr op) = false) (w : Word) :
    decode (.hbus op w) = .rdUnmapped (opAddr op) := by
  rw [decode, decodeHost_unmapped h, hread, if_neg Bool.false_ne_true]

theorem decode_unmapped_write {op : BitVec 9} (hwrite : opWrite op = true) (h : isMapped (opAddr op) = false) (w : Word) :
    decode (.hbus op w) = .wrUnmapped (opAddr op) w := by
  rw [decode, decodeHost_unmapped h, if_pos hwrite]

/-! ### The writes that act (R69) -/

/-- A CTRL write without START, or while busy, is ignored (R101). -/
theorem State.writeCtrl_ignored {s : State} {w : Word} (h : startBit w = false ∨ busy s = true) : s.writeCtrl w = s := by
  obtain h | h := h <;> simp [State.writeCtrl, h]

theorem State.writePin_of_not_busy {s : State} (h : busy s = false) (w : Word) :
    s.writePin w = { s with pin := pinField w } := by
  rw [State.writePin, h, if_neg Bool.false_ne_true]

end Sys2Proof.Machine
end

section
/-! The statements on the single host operations. -/

namespace Sys2Proof.Machine

/-- Settles O9: both words are 0, and an unmapped address with WE clear belongs to RD.UNMAPPED. -/
theorem controlAndUnmappedReadsAnswerZero : Obligations.ControlAndUnmappedReadsAnswerZero := fun _ =>
  ⟨fun _ => rfl, rfl, fun _ w hread hout => decode_unmapped_read hread hout w, fun _ => rfl⟩

/-- Settles O10: the STATUS word is the sum of its fields at their places. -/
theorem statusReadShowsStateResultBusy : Obligations.StatusReadShowsStateResultBusy := by
  intro s w
  refine ⟨rfl, statusWord s, rfl, ?_⟩
  rw [statusWord_toNat, resultCode_toNat, busy, Bool.toNat, Bool.cond_decide]

/-- Settles O12: the read answers the PIN word, which is PIN zero-extended. -/
theorem pinReadAnswersPinIdentifier : Obligations.PinReadAnswersPinIdentifier :=
  ⟨fun s _ => ⟨rfl, pinWord s, rfl, pinWord_toNat s⟩, rfl⟩

/-- Settles O13: an accepted START leaves the started block, which is in WAKE_LOW; any other CTRL write is ignored. -/
theorem controlWriteStartsDecodeUnlessBusy : Obligations.ControlWriteStartsDecodeUnlessBusy := by
  refine fun s w => ⟨rfl, fun hstart hidle => ?_, fun hignored => ?_⟩
  · have hexec := exec_start ((busy_eq_false_iff s).mpr hidle) ((startBit_eq_true_iff w).mpr hstart)
    obtain ⟨hoe, hout⟩ := pad_wakeLow s.startDecode_stateReg
    exact ⟨s.startDecode, hexec, rfl, hoe, hout, statusWord_wakeLow s.startDecode_stateReg⟩
  · have h : startBit w = false ∨ busy s = true := by
      rw [← Bool.not_eq_true, startBit_eq_true_iff, busy_eq_true_iff]
      exact hignored.imp_left (by omega)
    exact congrArg Host.Outcome.next (State.writeCtrl_ignored h)

/-- Settles O14: the five writes answer the state itself, and an unmapped address with WE set belongs to WR.UNMAPPED. -/
theorem readOnlyAndUnmappedWritesChangeNothing : Obligations.ReadOnlyAndUnmappedWritesChangeNothing := fun _ w =>
  ⟨⟨rfl, rfl⟩, ⟨rfl, rfl⟩, ⟨rfl, rfl⟩, ⟨rfl, rfl⟩, fun _ hwrite hout => decode_unmapped_write hwrite hout w, fun _ => rfl⟩

/-- Settles O15: the write sets PIN to the low byte when the block is not busy, and is ignored while it is. -/
theorem pinWriteTakesLowByteUnlessBusy : Obligations.PinWriteTakesLowByteUnlessBusy := by
  refine fun s w => ⟨rfl, fun hidle => ?_, fun hbusy => ?_⟩
  · have hpin := State.writePin_of_not_busy ((busy_eq_false_iff s).mpr hidle) w
    exact ⟨{ s with pin := pinField w }, congrArg Host.Outcome.next hpin, rfl, pinField_toNat w, rfl⟩
  · exact congrArg Host.Outcome.next (State.writePin_of_busy ((busy_eq_true_iff s).mpr hbusy) w)

end Sys2Proof.Machine
end

section
/-! SUPPORT. The wait phases tick by tick (R131, R134, R152–R155). -/

namespace Sys2Proof.Machine

/-! ### WAIT in a phase whose duration is discarded -/

theorem waitPhase_done {v sample : Level} (bound : Nat) (after : BitVec 4) (s : State) (h : sample ≠ v) :
    waitPhase v bound after sample s = (s.goto after).setC 1#12 := by
  simp only [waitPhase, wait_done bound h]

theorem waitPhase_timeout (v : Level) {bound : Nat} (after : BitVec 4) {s : State} (h : bound < s.c.toNat) :
    waitPhase v bound after v s = s.finish .timeoutErr := by
  simp only [waitPhase, wait_timeout v h]

theorem waitPhase_again (v : Level) {bound : Nat} (after : BitVec 4) {s : State} (h : s.c.toNat ≤ bound) :
    waitPhase v bound after v s = s.setC (s.c + 1#12) := by
  simp only [waitPhase, wait_again v h]

/-! ### The four wait states -/

/-- A STATE whose ticks are WAIT(v, bound) as long as the line is at the target level: they count up to the bound, and
after it time out. How the phase goes on at another level is each STATE's own. -/
structure Waits (code : BitVec 4) (v : Level) (bound : Nat) : Prop where
  sampled : 3 ≤ code.toNat ∧ code.toNat ≤ 6
  width : bound + 1 < 4096
  timeout : ∀ s : State, bound < s.c.toNat → exec (decode (.fsm code v)) s = .next (s.finish .timeoutErr)
  again : ∀ s : State, s.c.toNat ≤ bound → exec (decode (.fsm code v)) s = .next (s.setC (s.c + 1#12))

/-- A STATE whose meaning at the target level is `waitPhase`, whatever follows the phase. -/
theorem Waits.of_waitPhase {code after : BitVec 4} {v : Level} {bound : Nat}
    (hsampled : 3 ≤ code.toNat ∧ code.toNat ≤ 6) (hwidth : bound + 1 < 4096)
    (meaning : ∀ s : State, exec (decode (.fsm code v)) s = .next (waitPhase v bound after v s)) : Waits code v bound where
  sampled := hsampled
  width := hwidth
  timeout s h := (meaning s).trans (congrArg Host.Outcome.next (waitPhase_timeout v after h))
  again s h := (meaning s).trans (congrArg Host.Outcome.next (waitPhase_again v after h))

theorem waits_ackLow : Waits stAckLow .low 85 := .of_waitPhase (by decide) (by decide) fun _ => rfl

theorem waits_ackHigh : Waits stAckHigh .high 85 := .of_waitPhase (by decide) (by decide) fun _ => rfl

theorem waits_bitLow : Waits stBitLow .low 56 := .of_waitPhase (by decide) (by decide) fun _ => rfl

/-- BIT_HIGH keeps the duration, but at the target level it is WAIT(1, 75) all the same. -/
theorem waits_bitHigh : Waits stBitHigh .high 75 where
  sampled := by decide
  width := by decide
  timeout s h := by
    obtain ⟨-, -, htimeout, -⟩ := bitHighClassifiesAndPacks s
    exact htimeout h
  again s h := by
    obtain ⟨-, -, -, hagain⟩ := bitHighClassifiesAndPacks s
    exact hagain h

/-- Each of the 82 phases of a decode is in one of the four wait states, with its target level and bound (R139, R172). -/
theorem waits_phase (j : Nat) : Waits (phaseState j) (phaseLevel j) (phaseBound j) := by
  obtain rfl | rfl | ⟨h0, h1⟩ : j = 0 ∨ j = 1 ∨ (j ≠ 0 ∧ j ≠ 1) := by omega
  · exact waits_ackLow
  · exact waits_ackHigh
  · rw [phaseState, phaseLevel, phaseBound, if_neg h0, if_neg h1, if_neg h0, if_neg h1]
    by_cases heven : j % 2 = 0
    · rw [if_pos heven, if_pos heven, if_pos heven]
      exact waits_bitLow
    · rw [if_neg heven, if_neg heven, if_neg heven]
      exact waits_bitHigh

/-! ### Ticks of a wait phase -/

section WaitPhase

variable {code : BitVec 4} {v : Level} {bound : Nat} {s : State} {ls : List Level}

/-- With nothing pending, a tick of a wait state takes the first sample off the line and runs STATE with it. -/
theorem Waits.step (h : Waits code v bound) (hs : s.stateReg = code) (hp : s.pending = []) (hr : s.resetLine = false)
    {l : Level} (hl : s.line = l :: ls) :
    step s = exec (decode (.fsm code l)) { s with line := ls, phase := 0, tickNo := s.tickNo + 1 } := by
  subst hs
  have hw : waiting s.beginTick = true := (waiting_eq_true_iff s.beginTick).mpr h.sampled
  rw [step_of_tickNext hr (.inl hp) (drawSample_cons hw hl), beginTick_of_pending_nil hp]

/-- Samples at the target level while C is within the bound: C counts them. -/
theorem Waits.run (h : Waits code v bound) (hs : s.stateReg = code) (hp : s.pending = []) (hr : s.resetLine = false)
    {n : Nat} (hl : s.line = List.replicate n v ++ ls) (hn : s.c.toNat + n ≤ bound + 1) :
    ∃ phase, runSteps n s =
      .next { s with c := BitVec.ofNat 12 (s.c.toNat + n), line := ls, phase := phase, tickNo := s.tickNo + n } := by
  induction n generalizing ls with
  | zero =>
    have hc : BitVec.ofNat 12 (s.c.toNat + 0) = s.c := BitVec.eq_of_toNat_eq (Nat.mod_eq_of_lt s.c.isLt)
    obtain rfl : s.line = ls := hl
    exact ⟨s.phase, by rw [hc]; rfl⟩
  | succ n ih =>
    rw [List.replicate_succ', List.append_assoc] at hl
    obtain ⟨phase, hrun⟩ := ih hl (by omega)
    have hcount : (BitVec.ofNat 12 (s.c.toNat + n)).toNat ≤ bound := by
      rw [BitVec.toNat_ofNat]
      omega
    have hnext : BitVec.ofNat 12 (s.c.toNat + n) + 1#12 = BitVec.ofNat 12 (s.c.toNat + (n + 1)) :=
      (BitVec.ofNat_add (s.c.toNat + n) 1).symm
    rw [← hnext]
    exact ⟨0, runSteps_succ_of_next hrun
      ((h.step (by exact hs) (by exact hp) (by exact hr) rfl).trans (h.again _ (by exact hcount)))⟩

/-- One sample at the target level past the bound: the decode ends at the read at which C is T + 1 (R134). -/
theorem Waits.run_timeout (h : Waits code v bound) (hs : s.stateReg = code) (hp : s.pending = [])
    (hr : s.resetLine = false) (hc : s.c.toNat ≤ bound + 1) {n : Nat} (hl : s.line = List.replicate n v ++ ls)
    (hn : s.c.toNat + n = bound + 2) :
    runSteps n s =
      .next { s with
        stateReg := stTimeoutErr, c := BitVec.ofNat 12 (bound + 1), line := ls, phase := 0, tickNo := s.tickNo + n } := by
  obtain ⟨m, rfl⟩ : ∃ m, n = m + 1 := Nat.exists_eq_succ_of_ne_zero (by omega)
  rw [List.replicate_succ', List.append_assoc] at hl
  obtain ⟨phase, hrun⟩ := h.run hs hp hr hl (by omega)
  have hlast : s.c.toNat + m = bound + 1 := by omega
  have hcount : bound < (BitVec.ofNat 12 (bound + 1)).toNat := by
    rw [BitVec.toNat_ofNat, Nat.mod_eq_of_lt h.width]
    exact Nat.lt_succ_self bound
  rw [hlast] at hrun
  exact runSteps_succ_of_next hrun
    ((h.step (by exact hs) (by exact hp) (by exact hr) rfl).trans (h.timeout _ (by exact hcount)))

end WaitPhase

end Sys2Proof.Machine
end

section
/-! The statements on the timed waiter: the closed form of a wait phase, and the wait states whose duration is discarded. -/

namespace Sys2Proof.Machine

/-- Settles O42: C counts the samples at the target level up to T + 1, and the next read is Done at another level and
Timeout at the same. -/
theorem waitPhaseEndsByRunLength : Obligations.WaitPhaseEndsByRunLength := by
  intro s j n other rest hs hr hp hl hother hc
  have hwaits := waits_phase j
  have hwidth := hwaits.width
  refine ⟨fun hn => ?_, fun hn => ?_⟩
  · obtain ⟨phase, hrun⟩ := hwaits.run hs hp hr hl hn
    refine ⟨_, hrun, rfl, rfl, rfl, rfl, rfl, rfl, rfl, rfl, rfl, rfl, ?_⟩
    rw [wait_done _ hother]
    exact congrArg WaitResult.done (Nat.mod_eq_of_lt (hn.trans_lt hwidth))
  · obtain ⟨k, rfl⟩ := Nat.exists_eq_add_of_le (Nat.sub_le_iff_le_add'.mpr hn)
    rw [List.replicate_add, List.append_assoc] at hl
    have hrun := hwaits.run_timeout hs hp hr hc hl (by omega)
    exact ⟨_, hrun, rfl, Nat.mod_eq_of_lt hwidth, rfl, rfl, rfl, rfl, rfl, rfl, rfl, rfl,
      by rw [hl, List.drop_left' List.length_replicate]⟩

/-- Settles O24: a high sample is another level than the target, and at the target level the tick is WAIT(0, 85). -/
theorem ackLowWaitsWhileLow : Obligations.AckLowWaitsWhileLow := fun s =>
  ⟨fun _ => rfl, congrArg Host.Outcome.next (waitPhase_done 85 stAckHigh s (by decide)), waits_ackLow.timeout s,
    waits_ackLow.again s⟩

/-- Settles O25: a low sample is another level than the target, and at the target level the tick is WAIT(1, 85). -/
theorem ackHighWaitsWhileHigh : Obligations.AckHighWaitsWhileHigh := fun s =>
  ⟨fun _ => rfl, congrArg Host.Outcome.next (waitPhase_done 85 stBitLow s (by decide)), waits_ackHigh.timeout s,
    waits_ackHigh.again s⟩

/-- Settles O26: a high sample is another level than the target, and at the target level the tick is WAIT(0, 56). -/
theorem bitLowWaitsWhileLow : Obligations.BitLowWaitsWhileLow := fun s =>
  ⟨fun _ => rfl, congrArg Host.Outcome.next (waitPhase_done 56 stBitHigh s (by decide)), waits_bitLow.timeout s,
    waits_bitLow.again s⟩

end Sys2Proof.Machine
end

section
/-! SUPPORT. TEMP in numbers (R163), VALIDATE (R160), and what entering an error state leaves alone (R206). -/

namespace Sys2Proof.Machine

/-! ### The temperature in numbers -/

/-- The sign bit of F[2] in numbers. -/
theorem signBit_eq_decide (b : Byte) : b.getLsbD 7 = decide (128 ≤ b.toNat) :=
  BitVec.msb_eq_decide b

theorem temperatureMagnitude_toNat (f : Frame) :
    (temperatureMagnitude f).toNat = (f.b2.toNat % 128) * 256 + f.b3.toNat := by
  rw [temperatureMagnitude, BitVec.toNat_setWidth_of_le (by decide), BitVec.toNat_append,
    ← Nat.shiftLeft_add_eq_or_of_lt f.b3.isLt, Nat.shiftLeft_eq, BitVec.extractLsb'_toNat, Nat.shiftRight_zero]

/-- A magnitude below 0x8000 negated modulo 0x10000 is its negative, and 0 for 0 (R163). -/
theorem toInt_ofNat_complement {mag : Nat} (h : mag < 0x8000) :
    (BitVec.ofNat 16 (0x10000 - mag)).toInt = -(mag : Int) := by
  rw [BitVec.toInt_eq_toNat_cond, BitVec.toNat_ofNat]
  split <;> omega

theorem toInt_of_toNat_lt {x : Half} (h : x.toNat < 0x8000) : x.toInt = (x.toNat : Int) := by
  rw [BitVec.toInt_eq_toNat_cond, if_pos (by omega)]

/-- Temperature is the sign-magnitude value of F[2] and F[3] (R163). -/
theorem temperature_toInt (f : Frame) :
    (temperature f).toInt =
      if 128 ≤ f.b2.toNat then -(((f.b2.toNat % 128) * 256 + f.b3.toNat : Nat) : Int)
      else (((f.b2.toNat % 128) * 256 + f.b3.toNat : Nat) : Int) := by
  have hlow := f.b3.isLt
  have hmag : (temperatureMagnitude f).toNat < 0x8000 := by
    rw [temperatureMagnitude_toNat]
    omega
  rw [← temperatureMagnitude_toNat, temperature, signBit_eq_decide, apply_ite BitVec.toInt, toInt_ofNat_complement hmag,
    toInt_of_toNat_lt hmag]
  simp only [decide_eq_true_eq]

/-! ### VALIDATE -/

theorem execEngValidate_agrees {s : State}
    (h : (s.f.b0.toNat + s.f.b1.toNat + s.f.b2.toNat + s.f.b3.toNat) % 256 = s.f.b4.toNat) :
    execEngValidate s = .next { s with stateReg := stSuccess, hum := humidity s.f, temp := temperature s.f } := by
  rw [execEngValidate, if_pos ((checksumOk_eq_true_iff s.f).mpr h)]
  rfl

theorem execEngValidate_disagrees {s : State}
    (h : (s.f.b0.toNat + s.f.b1.toNat + s.f.b2.toNat + s.f.b3.toNat) % 256 ≠ s.f.b4.toNat) :
    execEngValidate s = .next { s with stateReg := stChecksumErr } := by
  rw [execEngValidate, if_neg (mt (checksumOk_eq_true_iff s.f).mp h)]
  rfl

/-! ### Entering an error state -/

/-- A drive phase enters no error state of its own (R150, R151). -/
theorem drivePhase_no_error {ticks : Nat} {after : BitVec 4} {s : State} (hafter : after.toNat < 9)
    (hne : (drivePhase ticks after s).stateReg ≠ s.stateReg) : (drivePhase ticks after s).stateReg.toNat < 9 := by
  obtain ⟨-, e⟩ | ⟨-, e⟩ := drivePhase_cases ticks after s <;> rw [e] at hne ⊢
  · exact hafter
  · exact absurd rfl hne

/-- A wait phase that leaves its STATE for an error state does so by Timeout (R152–R154). -/
theorem waitPhase_error {v sample : Level} {bound : Nat} {after : BitVec 4} {s : State} (hafter : after.toNat < 9)
    (hne : (waitPhase v bound after sample s).stateReg ≠ s.stateReg)
    (herr : 9 ≤ (waitPhase v bound after sample s).stateReg.toNat) :
    waitPhase v bound after sample s = s.finish .timeoutErr := by
  obtain ⟨-, e⟩ | ⟨-, -, e⟩ | ⟨-, -, e⟩ := waitPhase_cases v bound after sample s
  · rw [e] at herr
    exact absurd hafter (Nat.not_lt.mpr herr)
  · exact e
  · rw [e] at hne
    exact absurd rfl hne

/-- Only the wait states and VALIDATE lead to an error state, and in these the pad is an input (R45, R171). -/
theorem padOe_of_error_transition {s : State} {b : BitVec 4} (h : engineTransition s.stateReg b) (hb : 9 ≤ b.toNat) :
    padOe s = false := by
  have rows : ∀ a b : BitVec 4, engineTransition a b → 9 ≤ b.toNat → ¬(a = stWakeLow ∨ a = stReqHigh) := by
    unfold engineTransition
    decide
  exact decide_eq_false (rows _ _ h hb)

/-- An engine step that enters an error state sets STATE alone (R206). -/
theorem exec_engine_error {s t : State} {l : Level} (h : exec (decode (.fsm s.stateReg l)) s = .next t)
    (hne : t.stateReg ≠ s.stateReg) (herr : 9 ≤ t.stateReg.toNat) : ∃ o, t = s.finish o := by
  obtain ⟨-, rfl⟩ | ⟨-, rfl⟩ | ⟨-, rfl⟩ | ⟨-, rfl⟩ | ⟨-, rfl⟩ | ⟨-, rfl⟩ | ⟨-, -, rfl⟩ | ⟨-, -, -, rfl⟩ | ⟨-, -, -, rfl⟩ |
    ⟨-, -, rfl⟩ | ⟨-, -, rfl⟩ | ⟨-, rfl⟩ := exec_engine h
  · exact absurd rfl hne
  iterate 2 exact absurd (drivePhase_no_error (by decide) hne) (Nat.not_lt.mpr herr)
  iterate 3 exact ⟨.timeoutErr, waitPhase_error (by decide) hne herr⟩
  · obtain e | e := takeBit_stateReg s.c.toNat s <;> rw [e] at herr <;> exact absurd herr (by decide)
  · exact ⟨.timeoutErr, rfl⟩
  · exact absurd rfl hne
  · exact absurd herr (by simp)
  · exact ⟨.checksumErr, rfl⟩
  · exact absurd herr (by simp)

end Sys2Proof.Machine
end

section
/-! The statements on the decoder's data primitives and on the engine steps that end or rest. -/

namespace Sys2Proof.Machine

/-- Settles O28: Classify is the comparison with 40. -/
theorem classifyIsStrictlyAboveForty : Obligations.ClassifyIsStrictlyAboveForty := by
  have hiff (d : Nat) : classify d = true ↔ 40 < d := decide_eq_true_iff
  exact ⟨hiff, classify_of_le le_rfl, classify_of_lt (by decide),
    fun d e hle hd => (hiff e).mpr (((hiff d).mp hd).trans_le hle)⟩

/-- Settles O29: the checksum in numbers decides between the two outcomes, and the readings are those of F. -/
theorem validateStoresReadingOnMatchingChecksum : Obligations.ValidateStoresReadingOnMatchingChecksum := fun s =>
  ⟨fun _ => rfl, fun h => ⟨_, execEngValidate_agrees h, rfl, humidity_toNat s.f, temperature_toInt s.f⟩,
    execEngValidate_disagrees⟩

/-- Settles O30: the value in numbers, whose magnitude has 15 bits. -/
theorem temperatureIsSignMagnitudeInRange : Obligations.TemperatureIsSignMagnitudeInRange := by
  have value := temperature_toInt
  refine ⟨value, fun f => ?_, fun f h2 h3 => ?_, fun f h2 h3 => ?_, fun f h2 h3 => ?_⟩
  · have hlow := f.b3.isLt
    rw [value]
    split <;> omega
  all_goals simp [value, h2, h3]

/-- Settles O31: each of the four meanings answers the state itself, and none of the four codes drives the pad. -/
theorem idleAndTerminalStepsChangeNothing : Obligations.IdleAndTerminalStepsChangeNothing := by
  refine fun s l => ⟨⟨rfl, rfl⟩, ⟨rfl, rfl⟩, ⟨rfl, rfl⟩, ⟨rfl, rfl⟩, fun h => ?_⟩
  obtain h | h | h | h := h <;> rw [padOe, h] <;> rfl

/-- Settles O32: a reserved code's row is ENG.RESERVED, which is `goto IDLE`. -/
theorem reservedCodeRecoversToIdle : Obligations.ReservedCodeRecoversToIdle := fun _ _ =>
  ⟨fun h l => decodeEngine_reserved (decide_eq_true h) l, rfl⟩

/-- Settles O38: of the events only a tick can enter an error state, and its engine step then is `finish`. -/
theorem errorEntryChangesOnlyState : Obligations.ErrorEntryChangesOnlyState := by
  intro s t hstep hne hcode
  have herr : 9 ≤ t.stateReg.toNat := by omega
  obtain ⟨-, u, hu⟩ | ⟨-, -, l, u, hu, he⟩ | ⟨-, op, w, ps, d, -, -, he⟩ | ⟨-, ps, d, -, rfl⟩ := step_cases hstep
  · rw [hu] at herr
    exact absurd herr (by simp)
  · rw [← hu.registers.1] at he hne
    have hpad : padOe s = false := by
      rw [padOe, ← hu.registers.1]
      exact padOe_of_error_transition ((exec_engine_transition he).resolve_left hne) herr
    obtain ⟨o, rfl⟩ := exec_engine_error he hne herr
    rw [hu]
    exact ⟨rfl, rfl, rfl, rfl, rfl, rfl, rfl, rfl, hpad, by cases o <;> rfl⟩
  · obtain ⟨-, -, -, rfl⟩ | ⟨-, -, rfl⟩ | ht := exec_bus_cases he
    · exact absurd herr (by simp)
    · exact absurd rfl hne
    · exact absurd (by rw [ht]; rfl) hne
  · exact absurd rfl hne

end Sys2Proof.Machine
end

section
/-! SUPPORT. A decode along its runs (R134, R135, R172): the bits of the runs so far, where the decode is after them, and
the handoff from one phase to the next. -/

namespace Sys2Proof.Machine

/-! ### The phases -/

theorem phaseState_of_even {j : Nat} (h2 : 2 ≤ j) (h : j % 2 = 0) : phaseState j = stBitLow := by
  rw [phaseState, if_neg (by omega), if_neg (by omega), if_pos h]

theorem phaseState_of_odd {j : Nat} (h3 : 3 ≤ j) (h : j % 2 = 1) : phaseState j = stBitHigh := by
  rw [phaseState, if_neg (by omega), if_neg (by omega), if_neg (by omega)]

/-- Levels alternate (R139). -/
theorem phaseLevel_succ_ne (j : Nat) : phaseLevel (j + 1) ≠ phaseLevel j := by
  unfold phaseLevel
  obtain h | h := Nat.mod_two_eq_zero_or_one j
  · rw [if_pos h, if_neg (by omega)]
    decide
  · rw [if_pos (by omega), if_neg (by omega)]
    decide

/-- A phase that is no BIT_HIGH is Done into the phase after it, with C = 1 (R132, R152–R154). -/
theorem exec_phase_done {j : Nat} (hj : ¬(3 ≤ j ∧ j % 2 = 1)) (s : State) :
    exec (decode (.fsm (phaseState j) (phaseLevel (j + 1)))) s = .next ((s.goto (phaseState (j + 1))).setC 1#12) := by
  have hlevel := phaseLevel_succ_ne j
  obtain rfl | rfl | ⟨h2, heven⟩ : j = 0 ∨ j = 1 ∨ (2 ≤ j ∧ j % 2 = 0) := by omega
  · exact congrArg Host.Outcome.next (waitPhase_done 85 stAckHigh s hlevel)
  · exact congrArg Host.Outcome.next (waitPhase_done 85 stBitLow s hlevel)
  · rw [phaseState_of_even h2 heven, phaseState_of_odd (j := j + 1) (by omega) (by omega), phaseLevel,
      if_neg (by omega)]
    exact congrArg Host.Outcome.next (waitPhase_done 56 stBitHigh s (by decide))

/-- A BIT_HIGH phase is Done with its bit taken (R155). -/
theorem exec_phase_done_bitHigh {j : Nat} (h3 : 3 ≤ j) (hodd : j % 2 = 1) (s : State) :
    exec (decode (.fsm (phaseState j) (phaseLevel (j + 1)))) s = .next (takeBit s.c.toNat s) := by
  rw [phaseState_of_odd h3 hodd, phaseLevel, if_pos (by omega)]
  rfl

/-! ### The samples and the bits of the runs so far -/

theorem samplesFrom_append_singleton (j : Nat) (runs : List Nat) (r : Nat) :
    samplesFrom j (runs ++ [r]) = samplesFrom j runs ++ List.replicate r (phaseLevel (j + runs.length)) := by
  induction runs generalizing j with
  | nil => simp [samplesFrom]
  | cons r' runs ih => simp [samplesFrom, ih, Nat.add_right_comm, Nat.add_assoc]

theorem runsInBounds_append_singleton {runs : List Nat} {r : Nat} (h : RunsInBounds (runs ++ [r])) :
    RunsInBounds runs ∧ r ≤ phaseBound runs.length + 1 ∧ (runs = [] ∨ 1 ≤ r) := by
  obtain ⟨hle, hpos⟩ := h runs.length r List.getElem?_concat_length
  refine ⟨fun j r' hj => h j r' ?_, hle, hpos.imp_left List.length_eq_zero_iff.mp⟩
  rw [List.getElem?_append_left (List.getElem?_eq_some_iff.mp hj).1, hj]

/-- The bits taken in the phases of these runs, BIT_HIGH(k) being phase 2k + 3 (R172). -/
def runBits (runs : List Nat) : List Bool :=
  (List.range ((runs.length - 2) / 2)).map fun k => classify (runs.getD (2 * k + 3) 0)

theorem length_runBits (runs : List Nat) : (runBits runs).length = (runs.length - 2) / 2 := by
  rw [runBits, List.length_map, List.length_range]

/-- The 82 runs of a decode give its forty bits. -/
theorem runBits_of_length_eq {runs : List Nat} (h : runs.length = 82) : runBits runs = bitsOfRuns runs := by
  rw [runBits, h]
  rfl

/-- The bits of these runs do not depend on the run after them. -/
theorem runBits_eq_map_append (runs : List Nat) (r : Nat) :
    runBits runs = (List.range ((runs.length - 2) / 2)).map fun k => classify ((runs ++ [r]).getD (2 * k + 3) 0) := by
  refine List.map_congr_left fun k hk => ?_
  have hk := List.mem_range.mp hk
  rw [List.getD_append _ _ _ _ (by omega)]

theorem runBits_append_of_not_bitHigh {runs : List Nat} (h : ¬(3 ≤ runs.length ∧ runs.length % 2 = 1)) (r : Nat) :
    runBits (runs ++ [r]) = runBits runs := by
  have hcount : (runs.length + 1 - 2) / 2 = (runs.length - 2) / 2 := by omega
  rw [runBits_eq_map_append runs r, runBits, List.length_append, List.length_singleton, hcount]

theorem runBits_append_of_bitHigh {runs : List Nat} (h3 : 3 ≤ runs.length) (hodd : runs.length % 2 = 1) (r : Nat) :
    runBits (runs ++ [r]) = runBits runs ++ [classify r] := by
  have hcount : (runs.length + 1 - 2) / 2 = (runs.length - 2) / 2 + 1 := by omega
  have hlast : 2 * ((runs.length - 2) / 2) + 3 = runs.length := by omega
  rw [runBits_eq_map_append runs r, runBits, List.length_append, List.length_singleton, hcount, List.range_succ,
    List.map_append, List.map_singleton, hlast, List.getD_append_right _ _ _ _ le_rfl, Nat.sub_self, List.getD_cons_zero]

/-! ### Where a decode is after its runs -/

/-- BYTEIDX is 5 when forty bits are packed, and not before (R156). -/
theorem packAll_byteIdx_eq_five_iff {bits : List Bool} (h : bits.length ≤ 40) :
    (packAll bits).byteIdx = 5#3 ↔ bits.length = 40 := by
  obtain ⟨hpos, -⟩ := packAll_spec bits h
  have hbit : (packAll bits).bitIdx.toNat < 8 := (packAll bits).bitIdx.isLt
  rw [bitPosition] at hpos
  rw [← BitVec.toNat_inj]
  change _ = 5 ↔ _
  omega

/-- `s` with the frame and the position that these bits build. -/
def State.withBits (s : State) (bits : List Bool) : State :=
  { s with f := (packAll bits).f, byteIdx := (packAll bits).byteIdx, bitIdx := (packAll bits).bitIdx }

/-- The bit taken after these bits is the next of them, and the fortieth leads to VALIDATE (R155). -/
theorem takeBit_withBits (s : State) {bits : List Bool} (h : bits.length < 40) (d : Nat) :
    takeBit d (s.withBits bits) =
      { s with
        stateReg := if bits.length = 39 then stValidate else stBitLow
        c := if bits.length = 39 then 0#12 else 1#12 }.withBits (bits ++ [classify d]) := by
  have hpack : pack (s.withBits bits).f (s.withBits bits).byteIdx (s.withBits bits).bitIdx (classify d) =
      packAll (bits ++ [classify d]) := (packAll_append_singleton bits (classify d)).symm
  have hfull : (packAll (bits ++ [classify d])).byteIdx = 5#3 ↔ bits.length = 39 := by
    rw [packAll_byteIdx_eq_five_iff (by rw [List.length_append, List.length_singleton]; omega), List.length_append,
      List.length_singleton]
    omega
  rw [takeBit_eq, hpack]
  simp only [hfull]
  rfl

/-- A decode begun in `s` that has had these runs and made `count` reads at the target level of the phase after them;
`line` is still to come. -/
def State.inPhase (s : State) (runs : List Nat) (count phase : Nat) (line : List Level) : State :=
  { s with
    stateReg := phaseState runs.length
    c := BitVec.ofNat 12 count
    phase := phase
    tickNo := s.tickNo + (3025 + runs.sum + count)
    line := line }.withBits (runBits runs)

/-- A decode begun in `s` that has had its 82 runs and is in VALIDATE. -/
def State.received (s : State) (runs : List Nat) (line : List Level) : State :=
  { s with
    stateReg := stValidate
    c := 0#12
    phase := 0
    tickNo := s.tickNo + (3026 + runs.sum)
    line := line }.withBits (bitsOfRuns runs)

section Handoff

variable {s : State} {runs : List Nat} {count : Nat}

theorem inPhase_c_toNat (hcount : count ≤ phaseBound runs.length + 1) (phase : Nat) (line : List Level) :
    (s.inPhase runs count phase line).c.toNat = count :=
  Nat.mod_eq_of_lt (hcount.trans_lt (waits_phase runs.length).width)

variable (hr : s.resetLine = false) (hp : s.pending = [])
include hr hp

/-- A tick of a phase runs its STATE with the sample that it reads. -/
theorem step_inPhase (phase : Nat) (l : Level) (line : List Level) :
    step (s.inPhase runs count phase (l :: line)) =
      exec (decode (.fsm (phaseState runs.length) l))
        { s.inPhase runs count phase line with phase := 0, tickNo := s.tickNo + (3025 + runs.sum + count) + 1 } :=
  (waits_phase runs.length).step (s := s.inPhase runs count phase (l :: line)) rfl hp hr rfl

/-- The handoff at the end of a bit's high phase: the bit is taken (R155). -/
theorem step_handoff_bitHigh (h3 : 3 ≤ runs.length) (hodd : runs.length % 2 = 1) (hlen : runs.length < 82)
    (hcount : count ≤ phaseBound runs.length + 1) (phase : Nat) (line : List Level) :
    step (s.inPhase runs count phase (phaseLevel (runs.length + 1) :: line)) =
      .next ({ s with
        stateReg := if runs.length = 81 then stValidate else stBitLow
        c := if runs.length = 81 then 0#12 else 1#12
        phase := 0
        tickNo := s.tickNo + (3025 + runs.sum + count) + 1
        line := line }.withBits (runBits (runs ++ [count]))) := by
  have hbits : (runBits runs).length < 40 := by
    rw [length_runBits]
    omega
  have hlast : (runBits runs).length = 39 ↔ runs.length = 81 := by
    rw [length_runBits]
    omega
  have hbit := takeBit_withBits { s with
    stateReg := phaseState runs.length
    c := BitVec.ofNat 12 count
    phase := 0
    tickNo := s.tickNo + (3025 + runs.sum + count) + 1
    line := line } hbits count
  simp only [hlast] at hbit
  rw [step_inPhase hr hp, exec_phase_done_bitHigh h3 hodd, runBits_append_of_bitHigh h3 hodd, ← hbit]
  exact congrArg (fun d => Host.Outcome.next (takeBit d _)) (inPhase_c_toNat (s := s) hcount phase line)

/-- The handoff: the read at the other level ends the phase and is read 0 of the next one (R132, R135). -/
theorem step_handoff (hlen : runs.length < 81) (hcount : count ≤ phaseBound runs.length + 1) (phase : Nat)
    (line : List Level) :
    step (s.inPhase runs count phase (phaseLevel (runs.length + 1) :: line)) =
      .next (s.inPhase (runs ++ [count]) 1 0 line) := by
  have hsum : 3025 + (runs ++ [count]).sum + 1 = 3025 + runs.sum + count + 1 := by
    rw [List.sum_append, List.sum_singleton]
    omega
  rw [State.inPhase, State.inPhase, List.length_append, List.length_singleton, hsum]
  by_cases hbit : 3 ≤ runs.length ∧ runs.length % 2 = 1
  · obtain ⟨h3, hodd⟩ := hbit
    have hstep := step_handoff_bitHigh hr hp h3 hodd (by omega) hcount phase line
    rw [if_neg hlen.ne, if_neg hlen.ne] at hstep
    rw [phaseState_of_even (j := runs.length + 1) (by omega) (by omega)]
    exact hstep
  · rw [runBits_append_of_not_bitHigh hbit]
    exact (step_inPhase hr hp phase _ line).trans (exec_phase_done hbit _)

/-- The handoff after the last run: the frame is full and goes to VALIDATE (R155). -/
theorem step_handoff_last (hlen : runs.length = 81) (hcount : count ≤ phaseBound runs.length + 1) (phase : Nat)
    (line : List Level) :
    step (s.inPhase runs count phase (.low :: line)) = .next (s.received (runs ++ [count]) line) := by
  have hsum : 3026 + (runs ++ [count]).sum = 3025 + runs.sum + count + 1 := by
    rw [List.sum_append, List.sum_singleton]
    omega
  have hlow : phaseLevel (runs.length + 1) = .low := by rw [hlen]; rfl
  have hstep := step_handoff_bitHigh hr hp (by omega) (by omega) (by omega) hcount phase line
  rw [if_pos hlen, if_pos hlen, hlow] at hstep
  rw [State.received, ← runBits_of_length_eq (by simp [hlen]), hsum]
  exact hstep

/-- A read at the target level when T + 1 have been made is the timeout (R134, R159). -/
theorem step_overrun (phase : Nat) (line : List Level) :
    step (s.inPhase runs (phaseBound runs.length + 1) phase (phaseLevel runs.length :: line)) =
      .next ({ s.inPhase runs (phaseBound runs.length + 1) phase line with
        phase := 0
        tickNo := s.tickNo + (3025 + runs.sum + (phaseBound runs.length + 1)) + 1 }.finish .timeoutErr) := by
  have hcount := inPhase_c_toNat (s := s) (runs := runs) le_rfl phase line
  exact (step_inPhase hr hp phase _ line).trans
    ((waits_phase runs.length).timeout _ (by rw [hcount]; exact Nat.lt_succ_self _))

end Handoff

/-! ### From START along the runs -/

/-- The release of the line begins phase 0 with no reads made. -/
theorem Started.run_release {s : State} (h : Started s) : runSteps 3025 s = .next (s.inPhase [] 0 0 s.line) := by
  rw [h.run_request]
  obtain ⟨-, -, hf, hbyte, hbit, -, -⟩ := h
  rw [hf, hbyte, hbit]
  rfl

/-- Reads at the target level of a phase are counted, up to T + 1 of them (R134). -/
theorem run_inPhase {s : State} (hr : s.resetLine = false) (hp : s.pending = []) (runs : List Nat) {count n : Nat}
    (hcount : count + n ≤ phaseBound runs.length + 1) (phase : Nat) (line : List Level) :
    ∃ phase', runSteps n (s.inPhase runs count phase (List.replicate n (phaseLevel runs.length) ++ line)) =
      .next (s.inPhase runs (count + n) phase' line) := by
  have hc := inPhase_c_toNat (s := s) (runs := runs) (count := count) (by omega) phase
    (List.replicate n (phaseLevel runs.length) ++ line)
  obtain ⟨phase', hrun⟩ := (waits_phase runs.length).run
    (s := s.inPhase runs count phase (List.replicate n (phaseLevel runs.length) ++ line)) rfl hp hr rfl (by omega)
  rw [hc] at hrun
  exact ⟨phase', by rw [hrun]; simp only [State.inPhase, State.withBits, Nat.add_assoc]⟩

/-- Where a started decode is after its runs and `count` reads of the phase after them (R172). -/
theorem Started.run_runs {s : State} (h : Started s) {runs : List Nat} (hlen : runs.length < 82) (hb : RunsInBounds runs)
    {count : Nat} (hcount : count ≤ phaseBound runs.length + 1) (hpos : runs = [] ∨ 1 ≤ count) {line : List Level}
    (hl : s.line = samplesFrom 0 runs ++ (List.replicate count (phaseLevel runs.length) ++ line)) :
    ∃ phase, runSteps (3025 + runs.sum + count) s = .next (s.inPhase runs count phase line) := by
  have hrelease := h.run_release
  obtain ⟨-, -, -, -, -, hp, hr⟩ := h
  induction runs using List.reverseRecOn generalizing count line with
  | nil =>
    rw [hl] at hrelease
    obtain ⟨phase, hrun⟩ := run_inPhase hr hp [] (count := 0) (n := count) (by omega) 0 line
    rw [Nat.zero_add] at hrun
    exact ⟨phase, (runSteps_add_of_next count hrelease).trans hrun⟩
  | append_singleton runs r ih =>
    obtain ⟨hbefore, hle, hone⟩ := runsInBounds_append_singleton hb
    obtain ⟨n, rfl⟩ : ∃ n, count = n + 1 := Nat.exists_eq_add_of_le' (hpos.resolve_left (by simp))
    rw [List.length_append, List.length_singleton] at hlen
    rw [samplesFrom_append_singleton, List.append_assoc, Nat.zero_add, List.length_append, List.length_singleton,
      List.replicate_succ, List.cons_append] at hl
    obtain ⟨phase, hrun⟩ := ih (by omega) hbefore hle hone hl
    have hhandoff := runSteps_succ_of_next hrun (step_handoff hr hp (by omega) hle phase _)
    obtain ⟨phase', hcounted⟩ := run_inPhase hr hp (runs ++ [r]) (count := 1) (n := n) (by omega) 0 line
    have hticks : 3025 + (runs ++ [r]).sum + (n + 1) = 3025 + runs.sum + r + 1 + n := by
      rw [List.sum_append, List.sum_singleton]
      omega
    rw [hticks, Nat.add_comm n 1]
    rw [List.length_append] at hcounted
    exact ⟨phase', (runSteps_add_of_next n hhandoff).trans hcounted⟩

/-- A started decode that has had its 82 runs is in VALIDATE with the frame of their bits (R172). -/
theorem Started.run_received {s : State} (h : Started s) {runs : List Nat} (hlen : runs.length = 82)
    (hb : RunsInBounds runs) {rest : List Level} (hl : s.line = samplesFrom 0 runs ++ .low :: rest) :
    runSteps (3026 + runs.sum) s = .next (s.received runs rest) := by
  obtain ⟨runs, r, rfl⟩ : ∃ before r, runs = before ++ [r] :=
    ⟨_, _, (List.dropLast_append_getLast (List.ne_nil_of_length_pos (by omega))).symm⟩
  obtain ⟨hbefore, hle, hone⟩ := runsInBounds_append_singleton hb
  rw [List.length_append, List.length_singleton] at hlen
  rw [samplesFrom_append_singleton, List.append_assoc, Nat.zero_add] at hl
  obtain ⟨phase, hrun⟩ := h.run_runs (by omega) hbefore hle hone hl
  obtain ⟨-, -, -, -, -, hp, hr⟩ := h
  have hticks : 3026 + (runs ++ [r]).sum = 3025 + runs.sum + r + 1 := by
    rw [List.sum_append, List.sum_singleton]
    omega
  rw [hticks]
  exact runSteps_succ_of_next hrun (step_handoff_last hr hp (by omega) hle phase rest)

/-! ### The frame of a decode -/

theorem length_bitsOfRuns (runs : List Nat) : (bitsOfRuns runs).length = 40 := by
  rw [bitsOfRuns, List.length_map, List.length_range]

/-- Stream bit `k` is the class of the run of BIT_HIGH(k) (R172). -/
theorem streamBit_frameOfBits_bitsOfRuns (runs : List Nat) {k : Nat} (hk : k < 40) :
    streamBit (frameOfBits (bitsOfRuns runs)) k = classify (runs.getD (2 * k + 3) 0) := by
  rw [streamBit_frameOfBits (length_bitsOfRuns runs) hk, bitsOfRuns, List.getD_eq_getElem?_getD, List.getElem?_map,
    List.getElem?_range hk]
  rfl

/-- The frame received is the frame that the runs' bits make (R173). -/
theorem frameOfBits_bitsOfRuns {f : Frame} {runs : List Nat}
    (h : ∀ k, k < 40 → streamBit f k = classify (runs.getD (2 * k + 3) 0)) : frameOfBits (bitsOfRuns runs) = f :=
  Frame.eq_of_streamBit fun k hk => (streamBit_frameOfBits_bitsOfRuns runs hk).trans (h k hk).symm

/-! ### The end of a decode -/

/-- With nothing pending, a tick of VALIDATE reads no sample. -/
theorem step_validate {s : State} (hs : s.stateReg = stValidate) (hr : s.resetLine = false) (hp : s.pending = []) :
    step s = execEngValidate { s with phase := 0, tickNo := s.tickNo + 1 } := by
  have hw : waiting s.beginTick = false := (waiting_eq_false_iff s.beginTick).mpr (by simp [hs])
  rw [step_of_tickNext hr (.inl hp) (drawSample_idle hw), beginTick_of_pending_nil hp, hs]
  rfl

/-- The frame of a decode's 82 runs is that of their bits. -/
theorem received_f {s : State} (runs : List Nat) (line : List Level) :
    (s.received runs line).f = frameOfBits (bitsOfRuns runs) :=
  (packAll_full (length_bitsOfRuns runs)).1

end Sys2Proof.Machine
end

section
/-! The statements on whole decodes. -/

namespace Sys2Proof.Machine

/-- Settles O44: the decode follows its runs into VALIDATE, and the checksum of its frame decides. -/
theorem wholeDecodeFollowsItsRuns : Obligations.WholeDecodeFollowsItsRuns := by
  intro s runs rest hstart hl hlen hb f
  have hrun := hstart.run_received hlen hb hl
  obtain ⟨-, -, -, -, -, hp, hr⟩ := hstart
  have hvalidate := step_validate (s := s.received runs rest) rfl hr hp
  have hf : (s.received runs rest).f = f := received_f runs rest
  have hticks : 3027 + runs.sum = 3026 + runs.sum + 1 := by omega
  refine ⟨⟨_, hrun, rfl⟩, ?_⟩
  rw [hticks]
  by_cases hsum : (f.b0.toNat + f.b1.toNat + f.b2.toNat + f.b3.toNat) % 256 = f.b4.toNat
  · have hend := hvalidate.trans (execEngValidate_agrees (by rw [hf]; exact hsum))
    exact ⟨_, runSteps_succ_of_next hrun hend, hf, rfl, rfl, rfl, rfl,
      fun _ => ⟨rfl, by rw [hf]; exact humidity_toNat f, by rw [hf]; exact temperature_toInt f⟩, fun h => absurd hsum h⟩
  · have hend := hvalidate.trans (execEngValidate_disagrees (by rw [hf]; exact hsum))
    exact ⟨_, runSteps_succ_of_next hrun hend, hf, rfl, rfl, rfl, rfl, fun h => absurd h hsum, fun _ => ⟨rfl, rfl, rfl⟩⟩

/-- Settles O45: the decode follows its runs into the phase, which counts T + 1 reads and times out at the next one. -/
theorem firstOverrunEndsInTimeout : Obligations.FirstOverrunEndsInTimeout := by
  intro s runs r rest hstart hlen hb hr hl
  obtain ⟨k, rfl⟩ := Nat.exists_eq_add_of_le hr
  have hsplit : phaseBound runs.length + 2 + k = phaseBound runs.length + 1 + (k + 1) := by omega
  rw [hsplit, List.replicate_add, List.replicate_succ, List.append_assoc, List.append_assoc, List.cons_append] at hl
  obtain ⟨phase, hrun⟩ := hstart.run_runs hlen hb le_rfl (.inr (Nat.succ_pos _)) hl
  obtain ⟨-, -, -, -, -, hp, hreset⟩ := hstart
  have hticks : 3026 + runs.sum + phaseBound runs.length = 3025 + runs.sum + (phaseBound runs.length + 1) := by omega
  rw [hticks, Nat.add_sub_cancel_left]
  exact ⟨⟨_, hrun, rfl⟩, _, runSteps_succ_of_next hrun (step_overrun hreset hp phase _), rfl, rfl, rfl, rfl, rfl⟩

/-- Settles O50: claims 1, 2 and 5 are the whole decode on the frame that its bits make, claim 3 is the first overrun. -/
theorem sourcePropertiesHold : Obligations.SourcePropertiesHold where
  goodFrameSucceeds s f runs rest hstart hl hreceived hsum := by
    obtain ⟨hlen, hb, hbits⟩ := hreceived
    obtain ⟨-, t, hrun, -, -, -, -, -, hgood, -⟩ := wholeDecodeFollowsItsRuns s runs rest hstart hl hlen hb
    rw [frameOfBits_bitsOfRuns hbits] at hgood
    obtain ⟨hstate, hhum, htemp⟩ := hgood hsum.symm
    refine ⟨_, t, hrun, hstate, hhum, ?_⟩
    rw [htemp, signBit_eq_decide]
    simp only [decide_eq_true_eq]
    split
    · rw [neg_one_mul]
    · rw [one_mul]
  badFrameFails s f runs rest hstart hl hreceived hsum := by
    obtain ⟨hlen, hb, hbits⟩ := hreceived
    obtain ⟨-, t, hrun, -, -, -, -, -, -, hbad⟩ := wholeDecodeFollowsItsRuns s runs rest hstart hl hlen hb
    rw [frameOfBits_bitsOfRuns hbits] at hbad
    exact ⟨_, t, hrun, hbad (Ne.symm hsum)⟩
  overrunTimesOut s runs r rest hstart hlen hb hr hl := by
    obtain ⟨⟨u, hu, hphase⟩, t, ht, hstate, -, -, -, hline⟩ :=
      firstOverrunEndsInTimeout s runs r rest hstart hlen hb hr hl
    rw [runSteps_add_of_next 1 hu] at ht
    obtain ⟨v, hv⟩ := step_next u
    rw [runSteps_one hv] at ht
    exact ⟨_, u, t, hu, hphase, hv.trans ht, hstate, hline⟩
  classifyMonotonic := by
    obtain ⟨-, h40, h41, hmono⟩ := classifyIsStrictlyAboveForty
    exact ⟨hmono, h40, h41⟩
  streamOrder s runs rest hstart hl hlen hb := by
    obtain ⟨-, t, hrun, hf, -, -, -, -, hgood, hbad⟩ := wholeDecodeFollowsItsRuns s runs rest hstart hl hlen hb
    have hended : 8 ≤ t.stateReg.toNat := by
      obtain h | h := Classical.em _
      · exact (hgood h).1.ge
      · rw [(hbad h).1]
        decide
    refine ⟨_, t, hrun, hended, ?_, ?_⟩ <;> rw [hf]
    · exact streamBit_frameOfBits_bitsOfRuns runs (k := 0) (by decide)
    · exact streamBit_frameOfBits_bitsOfRuns runs (k := 39) (by decide)

end Sys2Proof.Machine
end

section
/-! SUPPORT. The earliest tick at which a decode can be where it is, whatever the line shows (R243). -/

namespace Sys2Proof.Machine

/-! ### A tick with nothing pending -/

/-- With nothing pending and reset not asserted, a step is an engine step in a state with the same registers. -/
theorem step_engine {s t : State} (hr : s.resetLine = false) (hp : s.pending = []) (h : step s = .next t) :
    ∃ l u, TickState s u ∧ u.pending = [] ∧ u.resetLine = false ∧ exec (decode (.fsm u.stateReg l)) u = .next t := by
  obtain ⟨l, u, he, hu⟩ := tickEvent_run s
  have hur : u.resetLine = false := by rw [hu]; exact hr
  rw [step_tick (nextEvent_nil hp), he, runEvent_run hur, ← hu.registers.1] at h
  exact ⟨l, u, hu, by rw [hu, hp, passTime], hur, h⟩

/-! ### The earliest tick of a state -/

/-- A number of ticks after the release of the line before which the block cannot be in a STATE 3..10 (by its number) with
this count and this many bits packed: each phase takes a tick, each count one more, and a bit two phases. BIT_LOW is the
first STATE that can time out, and the default is that of SUCCESS and CHECKSUM_ERR. -/
def earliest : (code count bits : Nat) → Nat
  | 3, count, bits => max count (2 * bits)
  | 4, count, bits => max (max count 1) (2 * bits + 1)
  | 5, count, bits => max (count + 1) (2 * bits + 2)
  | 6, count, bits => max (count + 1) (2 * bits + 3)
  | 7, _, _ => 82
  | 9, _, _ => 59
  | _, _, _ => 83

/-- `earliest` of what a state holds. -/
def State.earliest (s : State) : Nat :=
  Machine.earliest s.stateReg.toNat s.c.toNat (bitPosition s.byteIdx s.bitIdx)

section Earliest

variable {s : State}

theorem earliest_ackLow (hs : s.stateReg = stAckLow) :
    s.earliest = max s.c.toNat (2 * bitPosition s.byteIdx s.bitIdx) := by
  rw [State.earliest, hs]
  rfl

theorem earliest_ackHigh (hs : s.stateReg = stAckHigh) :
    s.earliest = max (max s.c.toNat 1) (2 * bitPosition s.byteIdx s.bitIdx + 1) := by
  rw [State.earliest, hs]
  rfl

theorem earliest_bitLow (hs : s.stateReg = stBitLow) :
    s.earliest = max (s.c.toNat + 1) (2 * bitPosition s.byteIdx s.bitIdx + 2) := by
  rw [State.earliest, hs]
  rfl

theorem earliest_bitHigh (hs : s.stateReg = stBitHigh) :
    s.earliest = max (s.c.toNat + 1) (2 * bitPosition s.byteIdx s.bitIdx + 3) := by
  rw [State.earliest, hs]
  rfl

theorem earliest_validate (hs : s.stateReg = stValidate) : s.earliest = 82 := by
  rw [State.earliest, hs]
  rfl

/-- One count more takes at most one tick more. -/
theorem earliest_count (code bits : Nat) {count count' : Nat} (h : count' ≤ count + 1) :
    Machine.earliest code count' bits ≤ Machine.earliest code count bits + 1 := by
  unfold earliest
  split <;> omega

end Earliest

/-- What is so `n` ticks after the release of the line, whatever the line shows. -/
structure Timely (n : Nat) (s : State) : Prop where
  /-- A wait state, VALIDATE or a terminal one. -/
  code : 3 ≤ s.stateReg.toNat ∧ s.stateReg.toNat ≤ 10
  /-- In a wait state the frame is not full. -/
  byteIdx : s.stateReg.toNat ≤ 6 → s.byteIdx.toNat ≤ 4
  time : s.earliest ≤ n

section Tick

variable {n : Nat} {s : State}

/-- C counts one more. -/
theorem Timely.count (h : Timely n s) : Timely (n + 1) (s.setC (s.c + 1#12)) where
  code := h.code
  byteIdx := h.byteIdx
  time := (earliest_count _ _ (Nat.mod_le (s.c.toNat + 1) _)).trans (Nat.succ_le_succ h.time)

/-- A terminal state, no earlier than one tick after this state. -/
theorem Timely.finish (h : Timely n s) (o : Terminal) (htime : Machine.earliest o.code.toNat 0 0 ≤ s.earliest + 1) :
    Timely (n + 1) (s.finish o) := by
  have hn := htime.trans (Nat.succ_le_succ h.time)
  cases o <;> exact ⟨by simp, by simp, hn⟩

/-- The next wait state, with the frame as it is. -/
theorem Timely.next (h : Timely n s) {after : BitVec 4} (hs : s.stateReg.toNat ≤ 6)
    (hafter : 3 ≤ after.toNat ∧ after.toNat ≤ 6)
    (htime : Machine.earliest after.toNat 1 (bitPosition s.byteIdx s.bitIdx) ≤ s.earliest + 1) :
    Timely (n + 1) ((s.goto after).setC 1#12) where
  code := ⟨hafter.1, hafter.2.trans (by decide)⟩
  byteIdx _ := h.byteIdx hs
  time := htime.trans (Nat.succ_le_succ h.time)

/-- A tick of a wait phase whose duration is discarded. -/
theorem Timely.afterWaitPhase (h : Timely n s) {v sample : Level} {bound : Nat} {after : BitVec 4}
    (hs : s.stateReg.toNat ≤ 6) (hafter : 3 ≤ after.toNat ∧ after.toNat ≤ 6)
    (hnext : Machine.earliest after.toNat 1 (bitPosition s.byteIdx s.bitIdx) ≤ s.earliest + 1)
    (htimeout : bound < s.c.toNat → 59 ≤ s.earliest + 1) : Timely (n + 1) (waitPhase v bound after sample s) := by
  obtain ⟨-, e⟩ | ⟨-, hc, e⟩ | ⟨-, -, e⟩ := waitPhase_cases v bound after sample s <;> rw [e]
  · exact h.next hs hafter hnext
  · exact h.finish .timeoutErr (htimeout hc)
  · exact h.count

/-- A tick that ends a bit's high phase. -/
theorem Timely.afterTakeBit (h : Timely n s) (hs : s.stateReg = stBitHigh) (d : Nat) : Timely (n + 1) (takeBit d s) := by
  have htime := h.time
  have hbyte := h.byteIdx (by simp [hs])
  have hpos := bitPosition_pack s.f s.bitIdx (classify d) hbyte
  have hnext := pack_byteIdx_toNat s.f s.byteIdx s.bitIdx (classify d)
  rw [earliest_bitHigh hs] at htime
  rw [takeBit_eq]
  generalize pack s.f s.byteIdx s.bitIdx (classify d) = p at *
  by_cases hfull : p.byteIdx = 5#3
  · have hbits : 40 ≤ bitPosition p.byteIdx p.bitIdx := by
      rw [hfull, bitPosition]
      exact Nat.le_add_right 40 _
    simp only [if_pos hfull]
    exact ⟨by simp, by simp, show 82 ≤ n + 1 by omega⟩
  · have hmore : p.byteIdx.toNat ≠ 5 := fun e => hfull (BitVec.eq_of_toNat_eq e)
    simp only [if_neg hfull]
    refine ⟨by simp, fun _ => ?_, show max (1 + 1) (2 * bitPosition p.byteIdx p.bitIdx + 2) ≤ n + 1 by omega⟩
    change p.byteIdx.toNat ≤ 4
    split at hnext <;> omega

/-- A tick of VALIDATE. -/
theorem Timely.afterValidate (h : Timely n s) (hs : s.stateReg = stValidate) (hum temp : Half) :
    Timely (n + 1) ({ s with hum := hum, temp := temp }.finish .success) ∧ Timely (n + 1) (s.finish .checksumErr) := by
  have htime : 83 ≤ s.earliest + 1 := by rw [earliest_validate hs]
  have hstored : Timely n { s with hum := hum, temp := temp } := ⟨h.code, h.byteIdx, h.time⟩
  exact ⟨hstored.finish .success htime, h.finish .checksumErr htime⟩

/-- Every engine step after the release. -/
theorem Timely.afterEngineStep (h : Timely n s) {t : State} {l : Level}
    (he : exec (decode (.fsm s.stateReg l)) s = .next t) : Timely (n + 1) t := by
  obtain ⟨-, rfl⟩ | ⟨hs, -⟩ | ⟨hs, -⟩ | ⟨hs, rfl⟩ | ⟨hs, rfl⟩ | ⟨hs, rfl⟩ | ⟨hs, -, rfl⟩ | ⟨hs, -, hc, rfl⟩ |
    ⟨-, -, -, rfl⟩ | ⟨hs, -, rfl⟩ | ⟨hs, -, rfl⟩ | ⟨hs, -⟩ := exec_engine he
  · exact ⟨h.code, h.byteIdx, h.time.trans (Nat.le_succ n)⟩
  iterate 2 exact absurd h.code.1 (by simp [hs])
  · have htime := earliest_ackLow hs
    exact h.afterWaitPhase (by simp [hs]) (by decide)
      (show max (max 1 1) (2 * bitPosition s.byteIdx s.bitIdx + 1) ≤ _ by omega) fun _ => by omega
  · have htime := earliest_ackHigh hs
    exact h.afterWaitPhase (by simp [hs]) (by decide)
      (show max (1 + 1) (2 * bitPosition s.byteIdx s.bitIdx + 2) ≤ _ by omega) fun _ => by omega
  · have htime := earliest_bitLow hs
    exact h.afterWaitPhase (by simp [hs]) (by decide)
      (show max (1 + 1) (2 * bitPosition s.byteIdx s.bitIdx + 3) ≤ _ by omega) fun _ => by omega
  · exact h.afterTakeBit hs s.c.toNat
  · have htime := earliest_bitHigh hs
    exact h.finish .timeoutErr (show 59 ≤ _ by omega)
  · exact h.count
  · exact (h.afterValidate hs _ _).1
  · exact (h.afterValidate hs 0#16 0#16).2
  · exact absurd h.code.2 (by omega)

end Tick

/-! ### Every tick after the release -/

/-- A tick keeps the bound, and that nothing is pending and reset is not asserted. -/
theorem Timely.afterStep {n : Nat} {s : State} (h : Timely n s) (hr : s.resetLine = false) (hp : s.pending = []) :
    ∃ t, step s = .next t ∧ Timely (n + 1) t ∧ t.resetLine = false ∧ t.pending = [] := by
  obtain ⟨t, ht⟩ := step_next s
  obtain ⟨l, u, hu, hup, hur, he⟩ := step_engine hr hp ht
  have henv := exec_env he
  have htimely : Timely n u := by
    rw [hu]
    exact ⟨h.code, h.byteIdx, h.time⟩
  exact ⟨t, ht, htimely.afterEngineStep he, henv.resetLine.trans hur, henv.pending.trans hup⟩

/-- `n` ticks after the release, whatever the line shows. -/
theorem Started.run_timely {s : State} (h : Started s) (n : Nat) :
    ∃ t, runSteps (3025 + n) s = .next t ∧ Timely n t ∧ t.resetLine = false ∧ t.pending = [] := by
  have hrelease := h.run_request
  obtain ⟨-, -, -, hbyte, hbit, hp, hr⟩ := h
  induction n with
  | zero =>
    refine ⟨_, hrelease, ⟨by simp, fun _ => by simp [hbyte], ?_⟩, hr, hp⟩
    rw [earliest_ackLow rfl]
    simp [bitPosition, hbyte, hbit]
  | succ n ih =>
    obtain ⟨t, hrun, htimely, htr, htp⟩ := ih
    obtain ⟨u, hu, hnext⟩ := htimely.afterStep htr htp
    exact ⟨u, runSteps_succ_of_next hrun hu, hnext⟩

/-- In SUCCESS or CHECKSUM_ERR 83 ticks have passed since the release. -/
theorem Timely.le_of_validated {n : Nat} {s : State} (h : Timely n s) (hs : s.stateReg.toNat = 8 ∨ s.stateReg.toNat = 10) :
    83 ≤ n := by
  have htime := h.time
  unfold State.earliest at htime
  obtain e | e := hs <;> rw [e] at htime <;> exact htime

/-- In a terminal state 59 ticks have passed since the release. -/
theorem Timely.le_of_ended {n : Nat} {s : State} (h : Timely n s) (hs : 8 ≤ s.stateReg.toNat) : 59 ≤ n := by
  obtain ⟨-, hle⟩ := h.code
  obtain e | e : s.stateReg.toNat = 9 ∨ (s.stateReg.toNat = 8 ∨ s.stateReg.toNat = 10) := by omega
  · have htime := h.time
    rw [State.earliest, e] at htime
    exact htime
  · exact le_trans (by decide) (h.le_of_validated e)

end Sys2Proof.Machine
end

section
/-! The statement on the earliest end of a decode. -/

namespace Sys2Proof.Machine

/-- Settles O47: the pad is driven for 3025 ticks, and after that each STATE has its earliest tick. -/
theorem noDecodeEndsBeforeTick3084 : Obligations.NoDecodeEndsBeforeTick3084 := by
  intro s n hstart
  obtain hdrive | hafter := Nat.lt_or_ge n 3025
  · obtain ⟨t, hrun, -, -, -, hoe, -, -⟩ := wakeAndRequestDriveTimes s n hstart hdrive.le
    rw [decide_eq_true hdrive] at hoe
    have hcode : t.stateReg = stWakeLow ∨ t.stateReg = stReqHigh := of_decide_eq_true hoe
    refine ⟨t, hrun, ?_⟩
    obtain e | e := hcode <;> simp [e]
  · obtain ⟨m, rfl⟩ := Nat.exists_eq_add_of_le hafter
    obtain ⟨t, hrun, htimely, -, -⟩ := hstart.run_timely m
    refine ⟨t, hrun, fun hn => ⟨?_, ?_⟩, fun hn => ⟨fun e => ?_, fun e => ?_⟩⟩
    · exact le_trans (by decide) htimely.code.1
    · by_contra hended
      exact absurd (htimely.le_of_ended (by omega)) (by omega)
    · exact absurd (htimely.le_of_validated (.inl e)) (by omega)
    · exact absurd (htimely.le_of_validated (.inr e)) (by omega)

end Sys2Proof.Machine
end

section
/-! SUPPORT. A change of the reset input and a block held at reset: the step, the reset values and the register words that
the host then reads (R205, R230, R231). -/

namespace Sys2Proof.Machine

/-! ### The reset values -/

theorem atReset_resetBlock (s : State) (level : Bool) : AtReset { s.resetBlock with resetLine := level } :=
  ⟨rfl, rfl, rfl, rfl, rfl, rfl, rfl, rfl⟩

/-- A block with the reset values answers every read as the block right after reset does. -/
theorem memRead_resetBlock (s : State) (level : Bool) (addr : Addr) :
    memRead { s.resetBlock with resetLine := level } addr = memRead State.reset addr :=
  memRead_congr rfl rfl rfl rfl addr

/-! ### The step -/

/-- A change of the reset input due by the tick, if it asserts or releases reset, leaves the reset values. -/
theorem step_of_resetInput {s : State} {d : Nat} {asserted : Bool} {ps : List Pending}
    (hp : s.pending = { delay := d, action := .resetInput asserted } :: ps) (hd : d ≤ timeToTick s)
    (h : s.resetLine = true ∨ asserted = true) :
    step s = .next { { s with pending := ps }.resetBlock with resetLine := asserted } := by
  rw [step, nextEvent_reset hp hd, runEvent, State.driveReset, if_pos (by simpa using h)]
  rfl

/-- While reset is asserted every step leaves the reset values, whatever event it is. -/
theorem step_of_resetLine {s : State} (hr : s.resetLine = true) :
    ∃ (u : State) (level : Bool), step s = .next { u.resetBlock with resetLine := level } := by
  obtain ⟨t, ht⟩ := step_next s
  obtain ⟨-, u, hu⟩ | ⟨hreleased, -⟩ | ⟨hreleased, -⟩ | ⟨hreleased, -⟩ := step_cases ht
  · exact ⟨u, t.resetLine, by rw [ht, ← hu]⟩
  iterate 3 exact absurd hreleased (by simp [hr])

end Sys2Proof.Machine
end

section
/-! SUPPORT. How many ticks a decode can still take, whatever the line shows (R243). -/

namespace Sys2Proof.Machine

/-! ### The longest rest of a decode -/

/-- The longest that a decode can take after the phase of this STATE (by its number), with this many bits packed: 25 ticks
of the request pulse, 87 of ACK_LOW, 86 of ACK_HIGH, 57 + 76 of each bit, and one of VALIDATE. A wait phase with bound T
takes T + 1 ticks, ACK_LOW one more because C starts at 0 (R132, R134). -/
def laterTicks : (code bits : Nat) → Nat
  | 1, _ => 25 + (87 + (86 + (40 * 133 + 1)))
  | 2, _ => 87 + (86 + (40 * 133 + 1))
  | 3, _ => 86 + (40 * 133 + 1)
  | 4, _ => 40 * 133 + 1
  | 5, bits => 76 + ((39 - bits) * 133 + 1)
  | 6, bits => (39 - bits) * 133 + 1
  | _, _ => 0

/-- `laterTicks` of what a state holds. -/
def State.laterTicks (s : State) : Nat := Machine.laterTicks s.stateReg.toNat (bitPosition s.byteIdx s.bitIdx)

/-- The longest that a decode can still take: the counts left in this phase, then the later phases. VALIDATE takes one tick,
and an ended decode none. -/
def State.ticksLeft (s : State) : Nat :=
  if s.stateReg.toNat ≤ 6 then countLimit s.stateReg + 1 - s.c.toNat + s.laterTicks
  else if s.stateReg = stValidate then 1
  else 0

section Tick

variable {s t : State}

theorem ticksLeft_phase (hs : s.stateReg.toNat ≤ 6) :
    s.ticksLeft = countLimit s.stateReg + 1 - s.c.toNat + s.laterTicks := if_pos hs

theorem ticksLeft_validate (hs : s.stateReg = stValidate) : s.ticksLeft = 1 := by
  simp [State.ticksLeft, hs]

@[simp] theorem ticksLeft_finish (s : State) (o : Terminal) : (s.finish o).ticksLeft = 0 := by
  cases o <;> rfl

/-- No decode takes longer than one that has just started. -/
theorem ticksLeft_le (hs : 1 ≤ s.stateReg.toNat ∧ s.stateReg.toNat ≤ 7) : s.ticksLeft ≤ 8519 := by
  have codes : ∀ x : BitVec 4, 1 ≤ x.toNat ∧ x.toNat ≤ 7 → x = stWakeLow ∨ x = stReqHigh ∨ x = stAckLow ∨
      x = stAckHigh ∨ x = stBitLow ∨ x = stBitHigh ∨ x = stValidate := by decide
  obtain e | e | e | e | e | e | e := codes s.stateReg hs <;>
    simp [State.ticksLeft, State.laterTicks, laterTicks, countLimit, e] <;> omega

/-! ### Every tick uses one up -/

/-- The end of a phase. -/
theorem Inv.ticksLeft_lt_of_le_later (h : Inv s) (hs : s.stateReg.toNat ≤ 6) (ht : t.ticksLeft ≤ s.laterTicks) :
    t.ticksLeft < s.ticksLeft := by
  have hc := h.c_le
  rw [ticksLeft_phase hs]
  omega

/-- One count more within a phase. -/
theorem ticksLeft_count_lt (hs : s.stateReg.toNat ≤ 6) (hc : s.c.toNat < countLimit s.stateReg) :
    (s.setC (s.c + 1#12)).ticksLeft < s.ticksLeft := by
  have hlimit := countLimit_le s.stateReg
  have hv : (s.c + 1#12).toNat = s.c.toNat + 1 := by
    rw [BitVec.toNat_add, BitVec.toNat_ofNat]
    omega
  have hleft : (s.setC (s.c + 1#12)).ticksLeft = countLimit s.stateReg + 1 - (s.c + 1#12).toNat + s.laterTicks :=
    ticksLeft_phase (s := s.setC (s.c + 1#12)) hs
  rw [hleft, ticksLeft_phase hs]
  omega

/-- The end of a phase with the frame as it is: the next phase and what comes after it are the later ticks. -/
theorem Inv.ticksLeft_next_lt (h : Inv s) (hs : s.stateReg.toNat ≤ 6) {after : BitVec 4} (v : BitVec 12)
    (hafter : after.toNat ≤ 6)
    (hnext : countLimit after + 1 - v.toNat + Machine.laterTicks after.toNat (bitPosition s.byteIdx s.bitIdx) ≤
      s.laterTicks) : ((s.goto after).setC v).ticksLeft < s.ticksLeft :=
  h.ticksLeft_lt_of_le_later hs ((ticksLeft_phase (s := (s.goto after).setC v) hafter).trans_le hnext)

/-- A tick of a drive phase. -/
theorem Inv.ticksLeft_drivePhase_lt (h : Inv s) (hs : s.stateReg.toNat ≤ 6) {ticks : Nat} {after : BitVec 4}
    (hticks : countLimit s.stateReg + 1 = ticks) (hafter : after.toNat ≤ 6)
    (hnext : countLimit after + 1 + Machine.laterTicks after.toNat (bitPosition s.byteIdx s.bitIdx) ≤ s.laterTicks) :
    (drivePhase ticks after s).ticksLeft < s.ticksLeft := by
  have hc := h.c_le
  obtain ⟨-, e⟩ | ⟨hmore, e⟩ := drivePhase_cases ticks after s <;> rw [e]
  · exact h.ticksLeft_next_lt hs 0#12 hafter hnext
  · exact ticksLeft_count_lt hs (by omega)

/-- A tick of a wait phase whose duration is discarded. -/
theorem Inv.ticksLeft_waitPhase_lt (h : Inv s) (hs : s.stateReg.toNat ≤ 6) {v sample : Level} {bound : Nat}
    {after : BitVec 4} (hbound : countLimit s.stateReg = bound + 1) (hafter : after.toNat ≤ 6)
    (hnext : countLimit after + Machine.laterTicks after.toNat (bitPosition s.byteIdx s.bitIdx) ≤ s.laterTicks) :
    (waitPhase v bound after sample s).ticksLeft < s.ticksLeft := by
  obtain ⟨-, e⟩ | ⟨-, -, e⟩ | ⟨-, hc, e⟩ := waitPhase_cases v bound after sample s <;> rw [e]
  · exact h.ticksLeft_next_lt hs 1#12 hafter hnext
  · exact h.ticksLeft_lt_of_le_later hs (by simp)
  · exact ticksLeft_count_lt hs (by omega)

/-- A tick that ends a bit's high phase: the fortieth bit is followed by VALIDATE, an earlier one by the next bit. -/
theorem Inv.ticksLeft_takeBit_lt (h : Inv s) (hr : s.resetLine = false) (hs : s.stateReg = stBitHigh) (d : Nat) :
    (takeBit d s).ticksLeft < s.ticksLeft := by
  obtain ⟨hbyte, -⟩ := h.loop (.inr hs)
  have hpos := bitPosition_pack s.f s.bitIdx (classify d) hbyte
  have hlater : s.laterTicks = (39 - bitPosition s.byteIdx s.bitIdx) * 133 + 1 := by rw [State.laterTicks, hs]; rfl
  refine h.ticksLeft_lt_of_le_later (by simp [hs]) ?_
  obtain e | e := takeBit_stateReg d s
  · rw [ticksLeft_validate e, hlater]
    exact Nat.le_add_left 1 _
  · have hinv := h.afterTakeBit hr hs d
    obtain ⟨hbyte', -⟩ := hinv.loop (.inl e)
    obtain ⟨hc, -⟩ := hinv.bitLow e
    have hpos : bitPosition (takeBit d s).byteIdx (takeBit d s).bitIdx = bitPosition s.byteIdx s.bitIdx + 1 := by
      rw [takeBit_eq]
      exact bitPosition_pack s.f s.bitIdx (classify d) hbyte
    have hmore : bitPosition (takeBit d s).byteIdx (takeBit d s).bitIdx ≤ 39 := by
      rw [bitPosition]
      omega
    have hlimit : countLimit (takeBit d s).stateReg = 57 := by rw [e]; rfl
    rw [ticksLeft_phase (by simp [e]), hlimit, hlater, State.laterTicks, e]
    change _ + (76 + ((39 - _) * 133 + 1)) ≤ _
    omega

/-- Every engine step of a busy state uses up a tick. -/
theorem Inv.ticksLeft_engineStep_lt (h : Inv s) (hr : s.resetLine = false)
    (hbusy : 1 ≤ s.stateReg.toNat ∧ s.stateReg.toNat ≤ 7) {l : Level} (he : exec (decode (.fsm s.stateReg l)) s = .next t) :
    t.ticksLeft < s.ticksLeft := by
  obtain ⟨hs | hs | hs | hs, -⟩ | ⟨hs, rfl⟩ | ⟨hs, rfl⟩ | ⟨hs, rfl⟩ | ⟨hs, rfl⟩ | ⟨hs, rfl⟩ | ⟨hs, -, rfl⟩ |
    ⟨hs, -, -, rfl⟩ | ⟨hs, -, hc, rfl⟩ | ⟨hs, -, rfl⟩ | ⟨hs, -, rfl⟩ | ⟨hs, -⟩ := exec_engine he
  iterate 4 exact absurd hbusy (by simp [hs])
  iterate 2
    exact h.ticksLeft_drivePhase_lt (by simp [hs]) (by rw [hs]; rfl) (by decide) (by rw [State.laterTicks, hs]; exact le_rfl)
  · exact h.ticksLeft_waitPhase_lt (by simp [hs]) (by rw [hs]; rfl) (by decide) (by rw [State.laterTicks, hs]; exact le_rfl)
  · refine h.ticksLeft_waitPhase_lt (by simp [hs]) (by rw [hs]; rfl) (by decide) ?_
    rw [State.laterTicks, hs]
    change 57 + (76 + ((39 - bitPosition s.byteIdx s.bitIdx) * 133 + 1)) ≤ 40 * 133 + 1
    omega
  · exact h.ticksLeft_waitPhase_lt (by simp [hs]) (by rw [hs]; rfl) (by decide) (by rw [State.laterTicks, hs]; exact le_rfl)
  · exact h.ticksLeft_takeBit_lt hr hs s.c.toNat
  · exact h.ticksLeft_lt_of_le_later (by simp [hs]) (by simp)
  · exact ticksLeft_count_lt (by simp [hs]) (by rw [hs]; exact Nat.lt_succ_of_le hc)
  iterate 2
    rw [ticksLeft_finish, ticksLeft_validate hs]
    exact Nat.one_pos
  · exact absurd hbusy.2 (by omega)

end Tick

/-! ### The end of a decode -/

/-- A decode in flight that the host and the reset input leave alone (R243). -/
structure InFlight (s : State) : Prop where
  inv : Inv s
  busy : 1 ≤ s.stateReg.toNat ∧ s.stateReg.toNat ≤ 7
  released : s.resetLine = false
  pending : s.pending = []

/-- From a busy STATE the transition table leads to a busy or a terminal one. -/
theorem engineTransition_pos {a b : BitVec 4} (h : engineTransition a b) (ha : 1 ≤ a.toNat ∧ a.toNat ≤ 7) :
    1 ≤ b.toNat := by
  revert a b
  unfold engineTransition
  decide

/-- A tick of a decode in flight ends it or leaves it in flight, with fewer ticks left. -/
theorem InFlight.step {s : State} (h : InFlight s) :
    ∃ t, step s = .next t ∧ t.ticksLeft < s.ticksLeft ∧ (InFlight t ∨ (8 ≤ t.stateReg.toNat ∧ t.stateReg.toNat ≤ 10)) := by
  obtain ⟨hinv, hbusy, hr, hp⟩ := h
  obtain ⟨t, ht⟩ := step_next s
  obtain ⟨l, u, hu, hup, hur, he⟩ := step_engine hr hp ht
  have huinv : Inv u := by
    rw [hu]
    exact hinv.withEnv (Nat.zero_le _) _ _ _ _ s.rdata
  have hubusy : 1 ≤ u.stateReg.toNat ∧ u.stateReg.toNat ≤ 7 := by rwa [hu.registers.1]
  have hleft : u.ticksLeft = s.ticksLeft := by
    rw [hu]
    rfl
  have htinv := hinv.afterStep ht
  have hpos : 1 ≤ t.stateReg.toNat := by
    obtain hsame | htrans := exec_engine_transition he
    · rw [hsame]
      exact hubusy.1
    · exact engineTransition_pos htrans hubusy
  refine ⟨t, ht, hleft ▸ huinv.ticksLeft_engineStep_lt hur hubusy he, ?_⟩
  obtain h7 | h8 := Nat.lt_or_ge t.stateReg.toNat 8
  · exact .inl ⟨htinv, ⟨hpos, Nat.le_of_lt_succ h7⟩, (exec_env he).resetLine.trans hur, (exec_env he).pending.trans hup⟩
  · exact .inr ⟨h8, htinv.code⟩

/-- A decode in flight ends within the ticks that it has left. -/
theorem InFlight.ends {k : Nat} {s : State} (h : InFlight s) (hk : s.ticksLeft ≤ k) :
    ∃ n t, n ≤ k ∧ runSteps n s = .next t ∧ 8 ≤ t.stateReg.toNat ∧ t.stateReg.toNat ≤ 10 := by
  induction k generalizing s with
  | zero =>
    obtain ⟨t, -, hlt, -⟩ := h.step
    exact absurd hlt (by omega)
  | succ k ih =>
    obtain ⟨t, ht, hlt, hflight | hended⟩ := h.step
    · obtain ⟨n, u, hn, hrun, hended⟩ := ih hflight (by omega)
      exact ⟨1 + n, u, by omega, (runSteps_add_of_next n (runSteps_one ht)).trans hrun, hended⟩
    · exact ⟨1, t, Nat.succ_pos k, runSteps_one ht, hended⟩

end Sys2Proof.Machine
end

section
/-! The statements on reset, on host accesses during a decode, and on the end of every decode. -/

namespace Sys2Proof.Machine

/-- Settles O2: every step here leaves a reset block, which holds the reset values and answers as the block right after
reset. -/
theorem resetOverridesEveryEvent : Obligations.ResetOverridesEveryEvent := by
  refine ⟨fun s d ps hp hd => ?_, fun s hr => ?_, fun s d ps hr hp hd => ?_⟩
  · exact ⟨_, step_of_resetInput hp hd (.inr rfl), atReset_resetBlock _ _, rfl, rfl, rfl, rfl, rfl, rfl, rfl⟩
  · obtain ⟨u, level, hstep⟩ := step_of_resetLine hr
    obtain ⟨-, -, -, -, hstatus, hhum, htemp, hreading, hpin⟩ := resetStateHoldsSpecValues
    refine ⟨_, hstep, atReset_resetBlock u level, rfl, rfl, rfl, ?_⟩
    simp only [memRead_resetBlock]
    exact ⟨hstatus, hhum, htemp, hreading, hpin⟩
  · exact ⟨_, step_of_resetInput hp hd (.inl hr), atReset_resetBlock _ _, rfl, rfl⟩

/-- Settles O19: of the effects of a host access, START and a new PIN need a block that is not busy, and the rest only
answer. -/
theorem hostAccessWhileBusyLeavesDecodeAlone : Obligations.HostAccessWhileBusyLeavesDecodeAlone := by
  intro s d op w ps h1 h7 hr hp hd
  have hbusy : busy { s with pending := ps, phase := s.phase + d } = true := (busy_eq_true_iff _).mpr ⟨h1, h7⟩
  obtain ⟨t, ht⟩ := exec_next (decode (.hbus op w)) { s with pending := ps, phase := s.phase + d }
  have hstep := (step_of_bus hr hp (Nat.lt_sub_iff_add_lt'.mpr hd)).trans ht
  obtain ⟨-, -, hidle, -⟩ | ⟨-, hidle, -⟩ | hanswer := exec_bus_cases ht
  iterate 2 exact absurd hbusy (by simp [hidle])
  · exact ⟨t.rdata, hstep.trans (congrArg Host.Outcome.next hanswer)⟩

/-- Settles O46: each tick of a decode in flight leaves fewer ticks, and none has more than 8519 left. -/
theorem everyDecodeEndsWithin8519Ticks : Obligations.EveryDecodeEndsWithin8519Ticks := fun _ hinv h1 h7 hr hp =>
  InFlight.ends ⟨hinv, ⟨h1, h7⟩, hr, hp⟩ (ticksLeft_le ⟨h1, h7⟩)

end Sys2Proof.Machine
end

section
/-! The statement on a release of reset while reset is not asserted. -/

namespace Sys2Proof.Machine

/-- A release while reset is not asserted drives the input to the level it has (R230). -/
theorem driveReset_false_of_released {s : State} (hr : s.resetLine = false) : s.driveReset false = s := by
  simp [State.driveReset, hr]

/-- Settles O49: the release comes before the tick, also at the tick's own moment, and drives the level that the input
has. -/
theorem resetReleaseWhileReleasedHasNoEffect : Obligations.ResetReleaseWhileReleasedHasNoEffect := by
  intro s d ps hr hp hd
  have hdue : d ≤ timeToTick s := Nat.le_sub_of_add_le' hd
  rw [step, nextEvent_reset hp hdue, runEvent]
  exact congrArg Host.Outcome.next (driveReset_false_of_released hr)

end Sys2Proof.Machine
end
